-- ==== Sys2Proof/Word.lean ====
section
/-! DEFINITION. The two word types of PCD-1 (R7, R8): every register is 32 bits wide and unsigned, and a
stream byte has 8 bits. -/

namespace Sys2Proof

/-- A register or bus word, 32 bits, unsigned (R7, R8). -/
abbrev Word := BitVec 32

/-- One byte of the chunk's stream (R9, R72). -/
abbrev Byte := BitVec 8

end Sys2Proof
end

