-- ==== Sys2Proof/Syntax.lean ====
section
/-! DEFINITION. The 13 commands of PCD-1, one constructor for each row of spec/opcode_table.json (R71). -/

namespace Sys2Proof

/-- A command (R70, R71). A byte operand is 8 bits and is never extended; a count operand is a natural number
(R72). DATA is an operand implied by the opcode and is no field of the command. -/
inductive Instr where
  /-- NOP (R180). -/
  | nop
  /-- CRC_INIT (R124). -/
  | crcInit
  /-- CRC_BYTE b (R125). -/
  | crcByte (b : Byte)
  /-- CRC_WORD (R126). -/
  | crcWord
  /-- CRC_CHECK (R127). -/
  | crcCheck
  /-- TYPE_BYTES (R103). -/
  | typeBytes
  /-- TYPE_TEXT n (R104). -/
  | typeText (n : Nat)
  /-- LEN_PARSE (R142). -/
  | lenParse
  /-- FRAME_START (R153). -/
  | frameStart
  /-- FRAME_BYTE b (R154). -/
  | frameByte (b : Byte)
  /-- FRAME_WORD (R155). -/
  | frameWord
  /-- FRAME_ABORT (R156). -/
  | frameAbort
  /-- CLR_ERR (R181). -/
  | clrErr
  deriving DecidableEq, Repr

end Sys2Proof
end

