-- ==== Sys2Proof/Config.lean ====
section
/-! DEFINITION. The implementation parameters of PCD-1 (R7). R7 leaves none open, so there is no free value
here: the numbers below are the bounds the spec derives from its register widths. -/

namespace Sys2Proof

/-- The longest buffer BUF_LEN can describe, 2^32 − 1 bytes (R7, R13). -/
def Config.maxBufLen : Nat := 0xFFFFFFFF

/-- The largest payload a frame can hold, 2^32 − 13 bytes (R7, R14). -/
def Config.maxPayload : Nat := 0xFFFFFFF3

/-- Where the text-length operand of TYPE_TEXT saturates: the host writes min(n, 0xFFFFFF) (R7). -/
def Config.textLenMax : Nat := 0xFFFFFF

end Sys2Proof
end

