-- ==== Sys2Proof/WellFormed.lean ====
section
/-! DEFINITION. Which commands have a command word (R72, R77). -/

namespace Sys2Proof

/-- A command is well formed when its operand fits its format. The one check is format N's: a count is at most
0xFFFFFF, 24 bits (R72, R77). Format Z has no operand, and a format B operand has 8 bits by its type. -/
def Instr.wellFormed : Instr → Bool
  | .typeText n => decide (n ≤ Config.textLenMax)
  | .nop | .crcInit | .crcByte _ | .crcWord | .crcCheck | .typeBytes | .lenParse
  | .frameStart | .frameByte _ | .frameWord | .frameAbort | .clrErr => true

end Sys2Proof
end

