-- ==== Sys2Proof/Decode.lean ====
section
/-! DEFINITION. Command words: the decoder, total on 32-bit words and rejecting by name (R70 to R73, R76), and the
encoder. A command is always one word (R79), and the block has no memory to fetch it from, so the decoder reads a
word, not a list of bytes (log entry 14). -/

namespace Sys2Proof

/-! ### Fields of a command word (R70) -/

/-- OPCODE, bits [31:24]. -/
def opcodeField (w : Word) : BitVec 8 := w.extractLsb' 24 8

/-- IMM24, bits [23:0]. -/
def immField (w : Word) : BitVec 24 := w.extractLsb' 0 24

/-- IMM24[23:8], which format B requires to be 0 (R72). -/
def immReserved (imm : BitVec 24) : BitVec 16 := imm.extractLsb' 8 16

/-- IMM24[7:0], the byte operand of format B (R72). -/
def immByte (imm : BitVec 24) : Byte := imm.extractLsb' 0 8

/-! ### Decoding -/

/-- Why a word is illegal (R73). -/
inductive DecodeError where
  /-- One of the 243 unassigned opcodes. -/
  | unassignedOpcode (op : BitVec 8)
  /-- A format Z opcode with IMM24 ≠ 0. -/
  | immediateNotZero (op : BitVec 8) (imm : BitVec 24)
  /-- A format B opcode with IMM24[23:8] ≠ 0. -/
  | reservedNotZero (op : BitVec 8) (imm : BitVec 24)
  deriving DecidableEq, Repr

/-- Format Z: legal when IMM24 = 0 (R72). -/
def decodeZ (op : BitVec 8) (imm : BitVec 24) (i : Instr) : Except DecodeError Instr :=
  if imm = 0 then .ok i else .error (.immediateNotZero op imm)

/-- Format B: legal when IMM24[23:8] = 0; the operand is IMM24[7:0] (R72). -/
def decodeB (op : BitVec 8) (imm : BitVec 24) (f : Byte → Instr) : Except DecodeError Instr :=
  if immReserved imm = 0 then .ok (f (immByte imm)) else .error (.reservedNotZero op imm)

/-- The opcode map (R71) with the formats (R72). -/
def decodeFields (op : BitVec 8) (imm : BitVec 24) : Except DecodeError Instr :=
  match op with
  | 0x00#8 => decodeZ op imm .nop
  | 0x01#8 => decodeZ op imm .crcInit
  | 0x02#8 => decodeB op imm .crcByte
  | 0x03#8 => decodeZ op imm .crcWord
  | 0x04#8 => decodeZ op imm .crcCheck
  | 0x10#8 => decodeZ op imm .typeBytes
  | 0x11#8 => .ok (.typeText imm.toNat)
  | 0x20#8 => decodeZ op imm .lenParse
  | 0x30#8 => decodeZ op imm .frameStart
  | 0x31#8 => decodeB op imm .frameByte
  | 0x32#8 => decodeZ op imm .frameWord
  | 0x33#8 => decodeZ op imm .frameAbort
  | 0x7F#8 => decodeZ op imm .clrErr
  | _ => .error (.unassignedOpcode op)

/-- The decoder of command words (R75, R76). -/
def decode (w : Word) : Except DecodeError Instr := decodeFields (opcodeField w) (immField w)

/-! ### Encoding -/

/-- The opcode of a command (R71). -/
def opcodeOf : Instr → BitVec 8
  | .nop => 0x00
  | .crcInit => 0x01
  | .crcByte _ => 0x02
  | .crcWord => 0x03
  | .crcCheck => 0x04
  | .typeBytes => 0x10
  | .typeText _ => 0x11
  | .lenParse => 0x20
  | .frameStart => 0x30
  | .frameByte _ => 0x31
  | .frameWord => 0x32
  | .frameAbort => 0x33
  | .clrErr => 0x7F

/-- The immediate of a command (R72). -/
def immOf : Instr → BitVec 24
  | .crcByte b | .frameByte b => b.zeroExtend 24
  | .typeText n => BitVec.ofNat 24 n
  | .nop | .crcInit | .crcWord | .crcCheck | .typeBytes | .lenParse
  | .frameStart | .frameWord | .frameAbort | .clrErr => 0

/-- The word of a command: OPCODE in [31:24], IMM24 in [23:0] (R70). -/
def encode (i : Instr) : Word := opcodeOf i ++ immOf i

/-! ### The mask and match table (R76) -/

/-- A row of R76's table: a word is the row's command when its bits under the mask are the pattern. -/
structure CommandRow where
  mnemonic : String
  pattern : Word
  mask : Word
  deriving DecidableEq, Repr

/-- A word is selected by a row (R76). -/
abbrev CommandRow.selects (r : CommandRow) (w : Word) : Prop := w &&& r.mask = r.pattern

/-- R76's row of a command. -/
def rowOf : Instr → CommandRow
  | .nop => ⟨"NOP", 0x00000000, 0xFFFFFFFF⟩
  | .crcInit => ⟨"CRC_INIT", 0x01000000, 0xFFFFFFFF⟩
  | .crcByte _ => ⟨"CRC_BYTE", 0x02000000, 0xFFFFFF00⟩
  | .crcWord => ⟨"CRC_WORD", 0x03000000, 0xFFFFFFFF⟩
  | .crcCheck => ⟨"CRC_CHECK", 0x04000000, 0xFFFFFFFF⟩
  | .typeBytes => ⟨"TYPE_BYTES", 0x10000000, 0xFFFFFFFF⟩
  | .typeText _ => ⟨"TYPE_TEXT", 0x11000000, 0xFF000000⟩
  | .lenParse => ⟨"LEN_PARSE", 0x20000000, 0xFFFFFFFF⟩
  | .frameStart => ⟨"FRAME_START", 0x30000000, 0xFFFFFFFF⟩
  | .frameByte _ => ⟨"FRAME_BYTE", 0x31000000, 0xFFFFFF00⟩
  | .frameWord => ⟨"FRAME_WORD", 0x32000000, 0xFFFFFFFF⟩
  | .frameAbort => ⟨"FRAME_ABORT", 0x33000000, 0xFFFFFFFF⟩
  | .clrErr => ⟨"CLR_ERR", 0x7F000000, 0xFFFFFFFF⟩

/-- R76's whole table, in its order. -/
def commandRows : List CommandRow :=
  [rowOf .nop, rowOf .crcInit, rowOf (.crcByte 0), rowOf .crcWord, rowOf .crcCheck, rowOf .typeBytes,
    rowOf (.typeText 0), rowOf .lenParse, rowOf .frameStart, rowOf (.frameByte 0), rowOf .frameWord,
    rowOf .frameAbort, rowOf .clrErr]

/-! ### Words numbered as the opcode table numbers them -/

/-- The command word whose low `nbits` bits are `w`'s and whose other bits are 0. A command is one 32-bit word
(R70), which the bus moves whole (R52), so there is no byte order to choose (log entry 14). -/
def tableWord (nbits w : Nat) : Word := BitVec.ofNat 32 (w % 2 ^ nbits)

/-- What the decoder reads from a table row's word. -/
def decodeTableWord (nbits w : Nat) : Option Instr := (decode (tableWord nbits w)).toOption

end Sys2Proof
end

