-- ==== Sys2Proof/Machine/State.lean ====
section
/-! DEFINITION. The state of PCD-1: the record of R39, plus the host's side of a run (R6, R56, R230), which is
the model's own; the reasons a step could stop; the state after reset (R38). -/

namespace Sys2Proof.Machine

/-- The frame engine's phase, STATUS.PHASE (R26). The value 7, which never occurs (R26, I-6), has no constructor
(DESIGN CHOICE, log entry 5). -/
inductive Phase where
  /-- No frame started, or the last frame was aborted. -/
  | idle
  /-- Receiving the 4 length bytes. -/
  | len
  /-- Receiving the 4 type bytes. -/
  | type
  /-- Receiving payload bytes. -/
  | payload
  /-- Receiving the 4 stored-CRC bytes. -/
  | crcf
  /-- The frame parsed successfully. -/
  | done
  /-- The frame failed; FRESULT holds the cause. -/
  | error
  deriving DecidableEq, Repr

/-- The result codes (R201), in the order of their numbers 0 to 7. The values 8 to 15, which never occur (R201, I-6),
have no constructor (DESIGN CHOICE, log entry 5). -/
inductive ResultCode where
  | ok
  | invalidInput
  | invalidChunkLength
  | invalidCrc
  | invalidChunkTypeLength
  | invalidChunkTypeCharacter
  | illegalCommand
  | sequenceError
  deriving DecidableEq, Repr

/-- The payload-extent policy, CTRL.LENPOL (R24): 0 is strict, 1 is bound. -/
inductive Policy where
  | strict
  | bound
  deriving DecidableEq, Repr

/-- A bus transaction (R56). The byte offset has 6 bits (R52). -/
inductive Txn where
  | read (off : BitVec 6)
  | write (off : BitVec 6) (v : Word)
  | reset
  deriving DecidableEq, Repr

/-- The machine. The first 14 fields are R39's record, the block's whole architectural state (R20); the last two are
the model's own and hold the host's side of a run. -/
structure State where
  /-- DATA, the operand register (R22). -/
  data : Word
  /-- STATUS.RESULT (R23, R202). -/
  result : ResultCode
  /-- STATUS.ERR, the sticky error bit (R23, R203). -/
  err : Bool
  /-- STATUS.PHASE (R23, R26). -/
  phase : Phase
  /-- STATUS.FRESULT, the frame verdict (R23, R204); ok stands for 0, no verdict. -/
  fresult : ResultCode
  /-- CTRL.LENPOL (R24). -/
  lenpol : Policy
  /-- BUF_LEN (R25). -/
  bufLen : Word
  /-- CRC, the running register before the final XOR (R27). -/
  crc : Word
  /-- TYPE (R29). -/
  chunkType : Word
  /-- LEN, the declared length (R31). -/
  len : Word
  /-- PLEN, the payload length of the last length check that passed (R32). -/
  plen : Word
  /-- SCRC, the stored checksum (R33). -/
  scrc : Word
  /-- POS, the frame engine's byte cursor (R34). -/
  pos : Word
  /-- ACC, the hidden field-assembly register (R35). -/
  acc : Word
  /-- The model's own: the transactions the host has still to issue, oldest first (DESIGN CHOICE, log entry 1). -/
  pending : List Txn
  /-- The model's own: the words the run's reads returned, oldest first (R230; DESIGN CHOICE, log entry 3). -/
  observed : List Word
  deriving DecidableEq, Repr

/-- Why the machine could stop with a fault: for no reason. The block has no traps, exceptions or interrupts, and an
error never stops it (R200), so there is no constructor, nothing raises one, and that is exact (log entry 6). -/
inductive Fault where
  deriving DecidableEq, Repr

/-- Why the model could refuse an instruction. -/
inductive Refusal where
  /-- Raised by an arm of exec for a command that has no meaning yet; no arm raises it any more. It would be safe: the
  model stops where the block goes on. -/
  | notModelled (mnemonic : String)
  deriving DecidableEq, Repr

/-- The state right after reset (R38, R221): every register at the value R38 gives. The host's side is empty
(DESIGN CHOICE, log entries 1, 3 and 4). -/
def State.reset : State where
  data := 0x00000000
  result := .ok
  err := false
  phase := .idle
  fresult := .ok
  lenpol := .strict
  bufLen := 0x00000000
  crc := 0xFFFFFFFF
  chunkType := 0x00000000
  len := 0x00000000
  plen := 0x00000000
  scrc := 0x00000000
  pos := 0x00000000
  acc := 0x00000000
  pending := []
  observed := []

end Sys2Proof.Machine
end

