-- ==== Sys2Proof/Machine/Operands.lean ====
section
/-! DEFINITION. Operand forms and byte order: the stream bytes of a word (R60), the byte of a B operand widened for
the datapath (R72, R9), the policy bit of a CTRL write (R24). -/

namespace Sys2Proof.Machine

/-- `byte_k(w)`: byte k of a word in stream order, byte 0 in bits [31:24] (R9, R60). -/
def byte0 (w : Word) : Byte := w.extractLsb' 24 8
def byte1 (w : Word) : Byte := w.extractLsb' 16 8
def byte2 (w : Word) : Byte := w.extractLsb' 8 8
def byte3 (w : Word) : Byte := w.extractLsb' 0 8

/-- The 4 stream bytes of a word, byte 0 first (R60). -/
def streamBytes (w : Word) : List Byte := [byte0 w, byte1 w, byte2 w, byte3 w]

/-- `BE32(b0, b1, b2, b3)`: the word that carries 4 stream bytes (R9, R60). -/
def be32 (b0 b1 b2 b3 : Byte) : Word := b0 ++ b1 ++ b2 ++ b3

/-- `zext_32(b)` (R9). -/
def zext32 (b : Byte) : Word := b.zeroExtend 32

/-- One byte shifted into a field being assembled: `((ACC << 8) | zext_32(b)) mod 2^32` (R35). -/
def shiftIn (acc : Word) (b : Byte) : Word := (acc <<< 8) ||| zext32 b

/-- The word read big-endian from the first bytes of a list, as ACC assembles it (R58, R35): the word of 4 bytes is
BE32 of them. -/
def assemble (bytes : List Byte) : Word := bytes.foldl shiftIn 0

/-- The policy a CTRL write stores: `wdata[0]`, 0 STRICT and 1 BOUND (R24). -/
def policyOfWord (v : Word) : Policy := if v.getLsbD 0 then .bound else .strict

end Sys2Proof.Machine
end

