-- ==== Sys2Proof/Machine/Flags.lean ====
section
/-! DEFINITION. Flags and read-only fields: the letter predicates (R100), TFLAGS (R101), the STATUS and CTRL words
(R23, R24, R53) and CRC_OUT (R28). -/

namespace Sys2Proof.Machine

/-! ### Letters (R100) -/

/-- `A` to `Z`. -/
def isUpper (b : Byte) : Bool := decide (0x41 ≤ b.toNat) && decide (b.toNat ≤ 0x5A)

/-- `a` to `z`. -/
def isLower (b : Byte) : Bool := decide (0x61 ≤ b.toNat) && decide (b.toNat ≤ 0x7A)

/-- An ASCII letter. -/
def isLetter (b : Byte) : Bool := isUpper b || isLower b

/-- All 4 bytes of a word are letters (R101 ALL_LETTERS, R104). -/
def allLetters (w : Word) : Bool :=
  isLetter (byte0 w) && isLetter (byte1 w) && isLetter (byte2 w) && isLetter (byte3 w)

/-- `TypeFlags(t)` (R101): bit 0 CRITICAL, 1 PUBLIC, 2 RESERVED_BIT_VALID, 3 SAFE_TO_COPY, 4 VALID, 5 ALL_LETTERS,
the rest 0. -/
def typeFlags (t : Word) : Word :=
  let critical := isUpper (byte0 t)
  let isPublic := isUpper (byte1 t)
  let reservedBitValid := isUpper (byte2 t)
  let safeToCopy := isLower (byte3 t)
  let valid := reservedBitValid
  (0#26 ++ BitVec.ofBool (allLetters t) ++ BitVec.ofBool valid ++ BitVec.ofBool safeToCopy
    ++ BitVec.ofBool reservedBitValid ++ BitVec.ofBool isPublic ++ BitVec.ofBool critical)

/-! ### STATUS and CTRL (R23, R24, R26, R201) -/

/-- The number of a result code (R201). -/
def resultBits : ResultCode → BitVec 4
  | .ok => 0
  | .invalidInput => 1
  | .invalidChunkLength => 2
  | .invalidCrc => 3
  | .invalidChunkTypeLength => 4
  | .invalidChunkTypeCharacter => 5
  | .illegalCommand => 6
  | .sequenceError => 7

/-- The number of a phase (R26). -/
def phaseBits : Phase → BitVec 3
  | .idle => 0
  | .len => 1
  | .type => 2
  | .payload => 3
  | .crcf => 4
  | .done => 5
  | .error => 6

/-- The number of a policy (R24). -/
def policyBit : Policy → BitVec 1
  | .strict => 0
  | .bound => 1

/-- STATUS as a bus read sees it (R23, R53). -/
def statusWord (s : State) : Word :=
  0#16 ++ resultBits s.fresult ++ 0#1 ++ phaseBits s.phase ++ 0#3 ++ BitVec.ofBool s.err ++ resultBits s.result

/-- CTRL as a bus read sees it (R24, R53). -/
def ctrlWord (s : State) : Word := 0#31 ++ policyBit s.lenpol

/-- CRC_OUT, the finished checksum (R28). -/
def crcOut (s : State) : Word := s.crc ^^^ 0xFFFFFFFF

/-- `Active(p)`: a frame is being received (R26, R54). -/
def active : Phase → Bool
  | .len | .type | .payload | .crcf => true
  | .idle | .done | .error => false

end Sys2Proof.Machine
end

