-- ==== Sys2Proof/Machine/Ops.lean ====
section
/-! DEFINITION. The shared operations: how a command ends (R9, R202, R203), the phase check of the standalone commands
(R75), and the registers behind the bus window (R51 to R55). The block has no memory (R50), no trap entry and no
trap return (R208, R209): `raiseCode` is all that an error does. -/

namespace Sys2Proof.Machine

/-! ### How a command ends -/

/-- `ok()`: the command ends with RESULT 0; ERR keeps its value (R9, R203). -/
def finishOk (s : State) : State := { s with result := .ok }

/-- `raise E(code)`: RESULT holds the code and ERR is set; every earlier write stays (R9, R208). -/
def raiseCode (c : ResultCode) (s : State) : State := { s with result := c, err := true }

/-- The end of a command whose last step answered Ok or Err(c) (R154, R155). -/
def finishWith (r : State × Option ResultCode) : Host.Outcome State Fault Refusal :=
  match r.2 with
  | none => .next (finishOk r.1)
  | some c => .next (raiseCode c r.1)

/-- A standalone CRC, TYPE or LEN command: SequenceError (7) and nothing else while a frame is active, else its body
(R75). -/
def standalone (body : State → Host.Outcome State Fault Refusal) (s : State) : Host.Outcome State Fault Refusal :=
  if active s.phase then .next (raiseCode .sequenceError s) else body s

/-! ### The register window -/

/-- The word slots of the window (R51). -/
inductive Port where
  | cmd | data | status | ctrl | bufLen | crc | crcOut | type | tflags | len | plen | scrc | pos | unmapped
  deriving DecidableEq, Repr

/-- The slot an offset reaches: its bits [5:2]; bits [1:0] are ignored (R51, R52). -/
def portAt (off : BitVec 6) : Port :=
  match off.extractLsb' 2 4 with
  | 0x0#4 => .cmd
  | 0x1#4 => .data
  | 0x2#4 => .status
  | 0x3#4 => .ctrl
  | 0x4#4 => .bufLen
  | 0x5#4 => .crc
  | 0x6#4 => .crcOut
  | 0x7#4 => .type
  | 0x8#4 => .tflags
  | 0x9#4 => .len
  | 0xA#4 => .plen
  | 0xB#4 => .scrc
  | 0xC#4 => .pos
  | _ => .unmapped

/-- What a read of a slot returns (R53). -/
def readPort (s : State) : Port → Word
  | .cmd => 0
  | .data => s.data
  | .status => statusWord s
  | .ctrl => ctrlWord s
  | .bufLen => s.bufLen
  | .crc => s.crc
  | .crcOut => crcOut s
  | .type => s.chunkType
  | .tflags => typeFlags s.chunkType
  | .len => s.len
  | .plen => s.plen
  | .scrc => s.scrc
  | .pos => s.pos
  | .unmapped => 0

/-- `BusRead(off)` (R53). -/
def busRead (off : BitVec 6) (s : State) : Word := readPort s (portAt off)

/-- A write of DATA: always stored whole (R22, R54). -/
def writeData (v : Word) (s : State) : State := { s with data := v }

/-- A write of CTRL: bit 0 into LENPOL, ignored while a frame is active (R24, R54, R55). -/
def writeCtrl (v : Word) (s : State) : State :=
  if active s.phase then s else { s with lenpol := policyOfWord v }

/-- A write of BUF_LEN: ignored while a frame is active (R25, R54, R55). -/
def writeBufLen (v : Word) (s : State) : State :=
  if active s.phase then s else { s with bufLen := v }

/-- Reset of the block (R221): every register at its value of R38. The host's transactions and what it has read are
not the block's and stay (DESIGN CHOICE, log entry 4). -/
def resetBlock (s : State) : State := { State.reset with pending := s.pending, observed := s.observed }

end Sys2Proof.Machine
end

