-- ==== Sys2Proof/Machine/ChunkType.lean ====
section
/-! DEFINITION. The ChunkType validator's commands (spec/40_chunktype.md). -/

namespace Sys2Proof.Machine

/-- TYPE_BYTES: TYPE takes DATA, no byte is checked (R103). -/
def execTypeBytes (s : State) : Host.Outcome State Fault Refusal :=
  standalone (fun s => .next (finishOk { s with chunkType := s.data })) s

/-- TYPE_TEXT: the length before the characters; TYPE is written on success only (R104). The count n is what the host
says the text's length is (R229; log entry 9). -/
def execTypeText (n : Nat) (s : State) : Host.Outcome State Fault Refusal :=
  standalone (fun s =>
    if n ≠ 4 then .next (raiseCode .invalidChunkTypeLength s)
    else if allLetters s.data then .next (finishOk { s with chunkType := s.data })
    else .next (raiseCode .invalidChunkTypeCharacter s)) s

end Sys2Proof.Machine
end

