-- ==== Sys2Proof/Machine/Control.lean ====
section
/-! DEFINITION. The control commands NOP and CLR_ERR (spec/44_control.md). Both are allowed in every phase. -/

namespace Sys2Proof.Machine

/-- NOP (R180). -/
def execNop (s : State) : Host.Outcome State Fault Refusal := .next (finishOk s)

/-- CLR_ERR (R181). -/
def execClrErr (s : State) : Host.Outcome State Fault Refusal := .next (finishOk { s with err := false })

end Sys2Proof.Machine
end

