-- ==== Sys2Proof/Machine/Crc.lean ====
section
/-! DEFINITION. The CRC-32/ISO-HDLC datapath and its commands (spec/41_crc.md). The parameters are R3's and R120's,
which the spec marks as general knowledge and checks against its one worked result (log entry 8). -/

namespace Sys2Proof.Machine

/-- One bit of the reflected update: shift right, XOR 0xEDB88320 when the bit shifted out is 1 (R120). -/
def crcBit (c : Word) : Word :=
  if c.getLsbD 0 then (c >>> 1) ^^^ 0xEDB88320 else c >>> 1

/-- n bit updates. -/
def crcBits : Nat → Word → Word
  | 0, c => c
  | n + 1, c => crcBits n (crcBit c)

/-- `CrcByte(c, b)` (R120). -/
def crcByte (c : Word) (b : Byte) : Word := crcBits 8 (c ^^^ zext32 b)

/-- `CrcSeq(c, s)`: the bytes in stream order (R121). -/
def crcSeq : Word → List Byte → Word
  | c, [] => c
  | c, b :: s => crcSeq (crcByte c b) s

/-- `CRC32(s)` (R122). -/
def crc32 (s : List Byte) : Word := crcSeq 0xFFFFFFFF s ^^^ 0xFFFFFFFF

/-- CRC_INIT (R124). -/
def execCrcInit (s : State) : Host.Outcome State Fault Refusal :=
  standalone (fun s => .next (finishOk { s with crc := 0xFFFFFFFF })) s

/-- CRC_BYTE (R125). -/
def execCrcByte (b : Byte) (s : State) : Host.Outcome State Fault Refusal :=
  standalone (fun s => .next (finishOk { s with crc := crcByte s.crc b })) s

/-- CRC_WORD: the 4 bytes of DATA, DATA[31:24] first (R126). -/
def execCrcWord (s : State) : Host.Outcome State Fault Refusal :=
  standalone (fun s => .next (finishOk { s with crc := crcSeq s.crc (streamBytes s.data) })) s

/-- CRC_CHECK: SCRC takes DATA before the comparison, so it is kept on a mismatch (R127). -/
def execCrcCheck (s : State) : Host.Outcome State Fault Refusal :=
  standalone (fun s =>
    let t := { s with scrc := s.data }
    if crcOut t = t.data then .next (finishOk t) else .next (raiseCode .invalidCrc t)) s

end Sys2Proof.Machine
end

