-- ==== Sys2Proof/Machine/Length.lean ====
section
/-! DEFINITION. The chunk length parser (spec/42_length.md): the length check shared with the frame engine, and
LEN_PARSE. -/

namespace Sys2Proof.Machine

/-- `PayloadLen(L, D, pol)` (R141). -/
def payloadLen (L D : Nat) : Policy → Nat
  | .strict => D
  | .bound => L - 12

/-- `LengthCheck(L, D, pol)` on natural numbers, so D + 12 does not wrap (R140): none is Fail, some n is Pass(n). -/
def lengthCheck (L D : Nat) (pol : Policy) : Option Nat :=
  if D + 12 > L then none
  else if pol = .strict ∧ D + 12 ≠ L then none
  else some (payloadLen L D pol)

/-- LEN_PARSE (R142): code 1 before LEN is written, code 2 after it and before PLEN. -/
def execLenParse (s : State) : Host.Outcome State Fault Refusal :=
  standalone (fun s =>
    if s.bufLen.toNat < 12 then .next (raiseCode .invalidInput s)
    else
      let t := { s with len := s.data }
      match lengthCheck t.bufLen.toNat t.len.toNat t.lenpol with
      | none => .next (raiseCode .invalidChunkLength t)
      | some n => .next (finishOk { t with plen := BitVec.ofNat 32 n })) s

end Sys2Proof.Machine
end

