-- ==== Sys2Proof/Machine/Frame.lean ====
section
/-! DEFINITION. The frame engine (spec/43_frame.md): the per-byte step (R152) and the FRAME commands. A step answers
the new state with none for Ok and some c for Err(c). Positions are compared as natural numbers (R8). -/

namespace Sys2Proof.Machine

/-- `FrameFail(c)` (R152). -/
def frameFail (c : ResultCode) (s : State) : State × Option ResultCode :=
  ({ s with phase := .error, fresult := c }, some c)

/-- A length, type or CRC byte enters ACC (R35). -/
def shiftAcc (b : Byte) (s : State) : State := { s with acc := shiftIn s.acc b }

/-- The end of the length field: LEN takes ACC and the length check gives its verdict (R152, phase LEN). -/
def frameLength (s : State) : State × Option ResultCode :=
  let t := { s with len := s.acc }
  match lengthCheck t.bufLen.toNat t.len.toNat t.lenpol with
  | none => frameFail .invalidChunkLength t
  | some n => ({ t with plen := BitVec.ofNat 32 n, phase := .type }, none)

/-- The end of the type field: TYPE takes ACC unchecked (R152, phase TYPE). -/
def frameType (s : State) : State :=
  { s with chunkType := s.acc, phase := if s.plen = 0 then .crcf else .payload }

/-- The end of the frame: SCRC takes ACC and is compared with the checksum (R152, phase CRCF). -/
def frameVerdict (s : State) : State × Option ResultCode :=
  let t := { s with scrc := s.acc }
  if crcOut t = t.scrc then ({ t with phase := .done }, none) else frameFail .invalidCrc t

/-- A byte at position p in phase LEN. -/
def frameLenByte (p : Nat) (b : Byte) (s : State) : State × Option ResultCode :=
  let t := shiftAcc b s
  if p = 3 then frameLength t else (t, none)

/-- A byte at position p in phase TYPE. -/
def frameTypeByte (p : Nat) (b : Byte) (s : State) : State × Option ResultCode :=
  let t := shiftAcc b { s with crc := crcByte s.crc b }
  if p = 7 then (frameType t, none) else (t, none)

/-- A byte at position p in phase PAYLOAD; it does not touch ACC (R35). -/
def framePayloadByte (p : Nat) (b : Byte) (s : State) : State × Option ResultCode :=
  let t := { s with crc := crcByte s.crc b }
  if p + 1 = 8 + t.plen.toNat then ({ t with phase := .crcf }, none) else (t, none)

/-- A byte at position p in phase CRCF. -/
def frameCrcByte (p : Nat) (b : Byte) (s : State) : State × Option ResultCode :=
  let t := shiftAcc b s
  if p + 1 = 12 + t.plen.toNat then frameVerdict t else (t, none)

/-- `FrameStep(b)` (R152). It is called only when a frame is active; in another phase the pseudocode's case has no
branch (log entry 10). -/
def frameStep (b : Byte) (s : State) : State × Option ResultCode :=
  let p := s.pos.toNat
  let t := { s with pos := s.pos + 1 }
  match s.phase with
  | .len => frameLenByte p b t
  | .type => frameTypeByte p b t
  | .payload => framePayloadByte p b t
  | .crcf => frameCrcByte p b t
  | .idle | .done | .error => (t, none)

/-- Bytes in stream order, up to the first that fails; the rest are discarded (R155). -/
def frameSteps : List Byte → State → State × Option ResultCode
  | [], s => (s, none)
  | b :: bs, s =>
    match frameStep b s with
    | (t, none) => frameSteps bs t
    | (t, some c) => (t, some c)

/-- FRAME_START (R153). -/
def execFrameStart (s : State) : Host.Outcome State Fault Refusal :=
  let t := { s with pos := 0, acc := 0, len := 0, plen := 0, scrc := 0, crc := 0xFFFFFFFF, fresult := .ok }
  if t.bufLen.toNat < 12 then
    .next (raiseCode .invalidInput { t with phase := .error, fresult := .invalidInput })
  else .next (finishOk { t with phase := .len })

/-- FRAME_BYTE (R154). -/
def execFrameByte (b : Byte) (s : State) : Host.Outcome State Fault Refusal :=
  if active s.phase then finishWith (frameStep b s) else .next (raiseCode .sequenceError s)

/-- FRAME_WORD: refused with nothing consumed when fewer than 4 bytes of the frame remain (R155). -/
def execFrameWord (s : State) : Host.Outcome State Fault Refusal :=
  if active s.phase = false ∨ s.bufLen.toNat - s.pos.toNat < 4 then .next (raiseCode .sequenceError s)
  else finishWith (frameSteps (streamBytes s.data) s)

/-- FRAME_ABORT (R156). -/
def execFrameAbort (s : State) : Host.Outcome State Fault Refusal :=
  .next (finishOk { s with phase := .idle, fresult := .ok })

end Sys2Proof.Machine
end

