-- ==== Sys2Proof/Machine/Dispatch.lean ====
section
/-! DEFINITION. The meaning of each legal command (R75, Body with its phase check). -/

namespace Sys2Proof.Machine

def exec (i : Instr) (s : State) : Host.Outcome State Fault Refusal :=
  match i with
  | .nop => Sys2Proof.Machine.execNop s
  | .crcInit => Sys2Proof.Machine.execCrcInit s
  | .crcByte b => Sys2Proof.Machine.execCrcByte b s
  | .crcWord => Sys2Proof.Machine.execCrcWord s
  | .crcCheck => Sys2Proof.Machine.execCrcCheck s
  | .typeBytes => Sys2Proof.Machine.execTypeBytes s
  | .typeText n => Sys2Proof.Machine.execTypeText n s
  | .lenParse => Sys2Proof.Machine.execLenParse s
  | .frameStart => Sys2Proof.Machine.execFrameStart s
  | .frameByte b => Sys2Proof.Machine.execFrameByte b s
  | .frameWord => Sys2Proof.Machine.execFrameWord s
  | .frameAbort => Sys2Proof.Machine.execFrameAbort s
  | .clrErr => Sys2Proof.Machine.execClrErr s

end Sys2Proof.Machine
end

