-- ==== Sys2Proof/Machine/Bus.lean ====
section
/-! DEFINITION. Bus transactions (R54, R56, R75): issuing a command, a bus write, one transaction. -/

namespace Sys2Proof.Machine

/-- `IssueCommand(w)` (R75): an illegal word raises IllegalCommand (6) and changes nothing else (R73); a legal one is
executed. -/
def issueCommand (w : Word) (s : State) : Host.Outcome State Fault Refusal :=
  match decode w with
  | .error _ => .next (raiseCode .illegalCommand s)
  | .ok i => exec i s

/-- A write to a slot (R54). -/
def writePort (v : Word) (s : State) : Port → Host.Outcome State Fault Refusal
  | .cmd => issueCommand v s
  | .data => .next (writeData v s)
  | .ctrl => .next (writeCtrl v s)
  | .bufLen => .next (writeBufLen v s)
  | .status | .crc | .crcOut | .type | .tflags | .len | .plen | .scrc | .pos | .unmapped => .next s

/-- `BusWrite(off, v)` (R54). -/
def busWrite (off : BitVec 6) (v : Word) (s : State) : Host.Outcome State Fault Refusal :=
  writePort v s (portAt off)

/-- The word a transaction returns to the host (R56). -/
def rdata (t : Txn) (s : State) : Word :=
  match t with
  | .read off => busRead off s
  | .write _ _ => 0
  | .reset => 0

/-- One transaction (R56). A read changes no register; the word it returns joins what the host has observed (R230). -/
def transact (t : Txn) (s : State) : Host.Outcome State Fault Refusal :=
  match t with
  | .read off => .next { s with observed := s.observed ++ [busRead off s] }
  | .write off v => busWrite off v s
  | .reset => .next (resetBlock s)

/-- The next transaction the host issues, if any, is carried out; with none left the block stays as it is, since it
has no background activity (R6; log entry 2). -/
def takeTransaction (s : State) : Host.Outcome State Fault Refusal :=
  match s.pending with
  | [] => .next s
  | t :: rest => transact t { s with pending := rest }

/-- Where the machine takes its next command from: a write of the word to CMD, ahead of every other transaction. -/
def placeCommand (w : Word) (s : State) : State := { s with pending := .write 0x00 w :: s.pending }

end Sys2Proof.Machine
end

