-- ==== Sys2Proof/Machine/Step.lean ====
section
/-! DEFINITION. One step of the machine: the next bus transaction (R56). -/

namespace Sys2Proof.Machine

/-- One step: the oldest pending transaction, carried out whole (R56, R57). -/
def step (s : State) : Host.Outcome State Fault Refusal := takeTransaction s

/-- The state in which the next step runs the given command word: the host's next transaction writes it to CMD (R70,
R75; log entry 4). -/
def State.withFetchWord (s : State) (nbits w : Nat) : State := placeCommand (tableWord nbits w) s

end Sys2Proof.Machine
end

