-- ==== Sys2Proof/Machine/Ports.lean ====
section
/-! DEFINITION. The port list (R220, R221): what one clock cycle's signals do, in terms of R56's transactions. The
architectural model is the transaction sequence; the clock is one call of portCycle. -/

namespace Sys2Proof.Machine

/-- The signals sampled at one rising edge (R220). `ready` is the implementation's: false is a stall. -/
structure Pins where
  rst : Bool
  sel : Bool
  we : Bool
  addr : BitVec 4
  wdata : Word
  ready : Bool
  deriving DecidableEq, Repr

/-- The byte offset of a word offset: `addr` is the offset's bits [5:2] (R52, R220). -/
def pinOffset (p : Pins) : BitVec 6 := p.addr ++ 0#2

/-- The transaction that completes in a cycle, if any: reset first, whatever else is presented (R221); else the
presented access when it is not stalled (R220). -/
def pinTxn (p : Pins) : Option Txn :=
  if p.rst then some .reset
  else if p.sel && p.ready then
    some (if p.we then .write (pinOffset p) p.wdata else .read (pinOffset p))
  else none

/-- One clock cycle: a cycle in which no transaction completes changes nothing (R6, R220). -/
def portCycle (p : Pins) (s : State) : Host.Outcome State Fault Refusal :=
  match pinTxn p with
  | none => .next s
  | some t => transact t s

/-- The `rdata` output: the read data of a read that completes (R220, R53); 0 in any other cycle (DESIGN CHOICE, log
entry 11). -/
def pinRdata (p : Pins) (s : State) : Word :=
  match pinTxn p with
  | none => 0
  | some t => rdata t s

/-- The transactions of a sequence of cycles, in order (R57, R220). -/
def pinTxns (ps : List Pins) : List Txn := ps.filterMap pinTxn

/-- Clock cycles in order, up to a stop. -/
def portCycles : List Pins → State → Host.Outcome State Fault Refusal
  | [], s => .next s
  | p :: ps, s =>
    match portCycle p s with
    | .next t => portCycles ps t
    | .fault r => .fault r
    | .refused r => .refused r

end Sys2Proof.Machine
end

