-- ==== Sys2Proof/Machine/Assembler.lean ====
section
/-! DEFINITION. PCD-1 assembly (R77, R78): statements and pseudo-instructions, the bus transactions they stand for,
and the text of a line. What R77 leaves open of the text is in log entry 12. -/

namespace Sys2Proof.Machine

/-! ### Statements -/

/-- A statement (R77) or a pseudo-instruction (R78). -/
inductive Stmt where
  /-- `wr REG, v`. -/
  | wr (r : Port) (v : Word)
  /-- `rd REG`. -/
  | rd (r : Port)
  /-- `reset`. -/
  | reset
  /-- A command with its own operands only. -/
  | command (i : Instr)
  /-- A command that reads DATA, with the word DATA is to hold: `crc.word v`, `type.text v, n` and so on. -/
  | withData (v : Word) (i : Instr)
  /-- `type.str "cccc"`. -/
  | typeStr (s : List Byte)
  /-- `crc.feed s`. -/
  | crcFeed (s : List Byte)
  /-- `frame.feed s`. -/
  | frameFeed (s : List Byte)
  /-- `chunk.crc t, s`. -/
  | chunkCrc (t : Word) (s : List Byte)
  /-- `expect REG, v`: a read that is to return v. -/
  | expect (r : Port) (v : Word)
  deriving DecidableEq, Repr

/-- `offset(REG)` (R51); the unmapped slots have no name, and the first of them is given. -/
def offsetOf : Port → BitVec 6
  | .cmd => 0x00
  | .data => 0x04
  | .status => 0x08
  | .ctrl => 0x0C
  | .bufLen => 0x10
  | .crc => 0x14
  | .crcOut => 0x18
  | .type => 0x1C
  | .tflags => 0x20
  | .len => 0x24
  | .plen => 0x28
  | .scrc => 0x2C
  | .pos => 0x30
  | .unmapped => 0x34

/-- The transaction that issues a command (R77). -/
def commandTxn (i : Instr) : Txn := .write (offsetOf .cmd) (encode i)

/-- `wr DATA, v` and then a command (R78). -/
def dataCommandTxns (v : Word) (i : Instr) : List Txn := [.write (offsetOf .data) v, commandTxn i]

/-- `crc.feed` and `frame.feed`: whole groups of 4 bytes as words, the 0 to 3 bytes left as bytes (R78). -/
def feedTxns (word : Instr) (byte : Byte → Instr) : List Byte → List Txn
  | b0 :: b1 :: b2 :: b3 :: rest => dataCommandTxns (be32 b0 b1 b2 b3) word ++ feedTxns word byte rest
  | rest => rest.map (fun b => commandTxn (byte b))

/-- `type.str`: BE32 of exactly 4 bytes; DATA 0 and the saturated length for any other length (R78). -/
def typeStrTxns : List Byte → List Txn
  | [b0, b1, b2, b3] => dataCommandTxns (be32 b0 b1 b2 b3) (.typeText 4)
  | s => dataCommandTxns 0 (.typeText (min s.length Config.textLenMax))

/-- The transactions of a statement (R77, R78); none where the assembler rejects an operand (R77). -/
def assembleStmt : Stmt → Option (List Txn)
  | .wr r v => some [.write (offsetOf r) v]
  | .rd r => some [.read (offsetOf r)]
  | .reset => some [.reset]
  | .command i => if i.wellFormed then some [commandTxn i] else none
  | .withData v i => if i.wellFormed then some (dataCommandTxns v i) else none
  | .typeStr s => some (typeStrTxns s)
  | .crcFeed s => some (feedTxns .crcWord .crcByte s)
  | .frameFeed s => some (feedTxns .frameWord .frameByte s)
  | .chunkCrc t s =>
    some (commandTxn .crcInit :: dataCommandTxns t .crcWord ++ feedTxns .crcWord .crcByte s)
  | .expect r _ => some [.read (offsetOf r)]

/-- The transactions of a program, statement by statement. -/
def assembleStmts : List Stmt → Option (List Txn)
  | [] => some []
  | st :: rest =>
    match assembleStmt st, assembleStmts rest with
    | some ts, some us => some (ts ++ us)
    | _, _ => none

/-- What a program's reads are to return, one entry a read: some v for `expect REG, v` (R78). -/
def expectedReads : List Stmt → List (Option Word)
  | [] => []
  | .expect _ v :: rest => some v :: expectedReads rest
  | .rd _ :: rest => none :: expectedReads rest
  | .wr _ _ :: rest | .reset :: rest | .command _ :: rest | .withData _ _ :: rest | .typeStr _ :: rest
  | .crcFeed _ :: rest | .frameFeed _ :: rest | .chunkCrc _ _ :: rest => expectedReads rest

/-- The words read meet what a program expects of them. -/
def meetsExpected : List (Option Word) → List Word → Bool
  | [], [] => true
  | none :: es, _ :: ws => meetsExpected es ws
  | some v :: es, w :: ws => decide (v = w) && meetsExpected es ws
  | _, _ => false

/-! ### The text of a line (R77) -/

inductive Token where
  | word (cs : List Char)
  | num (n : Nat)
  | str (s : List Byte)
  | comma
  | openBracket
  | closeBracket
  deriving DecidableEq, Repr

/-- A digit's value, decimal or hexadecimal. -/
def digitValue (c : Char) : Option Nat :=
  let n := c.toNat
  if 48 ≤ n ∧ n ≤ 57 then some (n - 48)
  else if 65 ≤ n ∧ n ≤ 70 then some (n - 55)
  else if 97 ≤ n ∧ n ≤ 102 then some (n - 87)
  else none

/-- Digits in a base, most significant first, after a value read so far. -/
def digitsValue (base : Nat) : Nat → List Char → Option Nat
  | acc, [] => some acc
  | acc, c :: cs =>
    match digitValue c with
    | some d => if d < base then digitsValue base (acc * base + d) cs else none
    | none => none

/-- A decimal number, or a hexadecimal one with `0x` (R77). -/
def numberValue : List Char → Option Nat
  | '0' :: 'x' :: c :: cs => digitsValue 16 0 (c :: cs)
  | c :: cs => digitsValue 10 0 (c :: cs)
  | [] => none

/-- A run of characters is a number when it begins with a digit, else a name. -/
def tokenOfRun (cs : List Char) : Option Token :=
  match cs with
  | [] => none
  | c :: _ => if 48 ≤ c.toNat ∧ c.toNat ≤ 57 then (numberValue cs).map .num else some (.word cs)

/-- An ASCII character's code as a byte. -/
def asciiByte (c : Char) : Option Byte := if c.toNat < 128 then some (BitVec.ofNat 8 c.toNat) else none

/-- Where the lexer stands: between tokens, in a name or number, in a string, after the opening quote of a character
literal, after its character. Accumulated parts are last first. -/
inductive LexState where
  | start
  | inRun (acc : List Char)
  | inStr (acc : List Byte)
  | charOpen
  | charBody (c : Char)
  deriving DecidableEq, Repr

def doubleQuote : Char := Char.ofNat 34
def singleQuote : Char := Char.ofNat 39
def tabChar : Char := Char.ofNat 9

/-- A character that ends a name or number. -/
def isSeparator (c : Char) : Bool :=
  c == ' ' || c == tabChar || c == ',' || c == '[' || c == ']' || c == ';' || c == doubleQuote || c == singleQuote

/-- A character between tokens: the token it is, if any, and where the lexer stands after it; none at `;`, which
starts a comment (R77). -/
def lexStart (c : Char) : Option (List Token × LexState) :=
  if c = ';' then none
  else if c = ' ' ∨ c = tabChar then some ([], .start)
  else if c = ',' then some ([.comma], .start)
  else if c = '[' then some ([.openBracket], .start)
  else if c = ']' then some ([.closeBracket], .start)
  else if c = doubleQuote then some ([], .inStr [])
  else if c = singleQuote then some ([], .charOpen)
  else some ([], .inRun [c])

/-- The tokens of a line (R77). -/
def lex : LexState → List Char → Option (List Token)
  | .start, [] => some []
  | .inRun acc, [] => (tokenOfRun acc.reverse).map (fun t => [t])
  | .inStr _, [] | .charOpen, [] | .charBody _, [] => none
  | .start, c :: cs =>
    match lexStart c with
    | none => some []
    | some (ts, st) => (lex st cs).map (ts ++ ·)
  | .inRun acc, c :: cs =>
    if isSeparator c then
      match tokenOfRun acc.reverse, lexStart c with
      | none, _ => none
      | some t, none => some [t]
      | some t, some (ts, st) => (lex st cs).map (fun us => t :: (ts ++ us))
    else lex (.inRun (c :: acc)) cs
  | .inStr acc, c :: cs =>
    if c = doubleQuote then (lex .start cs).map (.str acc.reverse :: ·)
    else match asciiByte c with
      | some b => lex (.inStr (b :: acc)) cs
      | none => none
  | .charOpen, c :: cs => lex (.charBody c) cs
  | .charBody c, q :: cs =>
    if q = singleQuote then
      match asciiByte c with
      | some b => (lex .start cs).map (.num b.toNat :: ·)
      | none => none
    else none

/-- A register's name (R51). -/
def registerNamed (cs : List Char) : Option Port :=
  if cs = "CMD".toList then some .cmd
  else if cs = "DATA".toList then some .data
  else if cs = "STATUS".toList then some .status
  else if cs = "CTRL".toList then some .ctrl
  else if cs = "BUF_LEN".toList then some .bufLen
  else if cs = "CRC".toList then some .crc
  else if cs = "CRC_OUT".toList then some .crcOut
  else if cs = "TYPE".toList then some .type
  else if cs = "TFLAGS".toList then some .tflags
  else if cs = "LEN".toList then some .len
  else if cs = "PLEN".toList then some .plen
  else if cs = "SCRC".toList then some .scrc
  else if cs = "POS".toList then some .pos
  else none

/-- A statement that is a name alone (R77). -/
def plainStmt (cs : List Char) : Option Stmt :=
  if cs = "reset".toList then some .reset
  else if cs = "nop".toList then some (.command .nop)
  else if cs = "crc.init".toList then some (.command .crcInit)
  else if cs = "crc.word".toList then some (.command .crcWord)
  else if cs = "crc.check".toList then some (.command .crcCheck)
  else if cs = "type.bytes".toList then some (.command .typeBytes)
  else if cs = "len.parse".toList then some (.command .lenParse)
  else if cs = "frame.start".toList then some (.command .frameStart)
  else if cs = "frame.word".toList then some (.command .frameWord)
  else if cs = "frame.abort".toList then some (.command .frameAbort)
  else if cs = "clr.err".toList then some (.command .clrErr)
  else none

/-- A 32-bit operand. -/
def wordOperand (n : Nat) : Option Word := if n < 2 ^ 32 then some (BitVec.ofNat 32 n) else none

/-- A byte operand: above 255 it is rejected (R77). -/
def byteOperand (n : Nat) : Option Byte := if n < 256 then some (BitVec.ofNat 8 n) else none

/-- A statement with one number (R77, R78). -/
def numberStmt (cs : List Char) (n : Nat) : Option Stmt :=
  if cs = "crc.byte".toList then (byteOperand n).map (fun b => .command (.crcByte b))
  else if cs = "frame.byte".toList then (byteOperand n).map (fun b => .command (.frameByte b))
  else if cs = "type.text".toList then some (.command (.typeText n))
  else if cs = "crc.word".toList then (wordOperand n).map (.withData · .crcWord)
  else if cs = "crc.check".toList then (wordOperand n).map (.withData · .crcCheck)
  else if cs = "type.bytes".toList then (wordOperand n).map (.withData · .typeBytes)
  else if cs = "len.parse".toList then (wordOperand n).map (.withData · .lenParse)
  else if cs = "frame.word".toList then (wordOperand n).map (.withData · .frameWord)
  else none

/-- A statement with a byte sequence (R78). -/
def bytesStmt (cs : List Char) (s : List Byte) : Option Stmt :=
  if cs = "type.str".toList then some (.typeStr s)
  else if cs = "crc.feed".toList then some (.crcFeed s)
  else if cs = "frame.feed".toList then some (.frameFeed s)
  else none

/-- The rest of `[b0, b1, ...]` after the bracket (R78). -/
def bracketBytes : List Token → Option (List Byte)
  | [.num n, .closeBracket] => (byteOperand n).map (fun b => [b])
  | .num n :: .comma :: rest =>
    match byteOperand n, bracketBytes rest with
    | some b, some bs => some (b :: bs)
    | _, _ => none
  | _ => none

/-- A byte sequence, `"text"` or `[b0, b1, ...]` (R78). -/
def bytesOperand : List Token → Option (List Byte)
  | [.str s] => some s
  | [.openBracket, .closeBracket] => some []
  | .openBracket :: rest => bracketBytes rest
  | _ => none

/-- The statement of a line's tokens. -/
def stmtOfTokens : List Token → Option Stmt
  | [.word m] => plainStmt m
  | [.word m, .num n] => numberStmt m n
  | [.word m, .word r] => if m = "rd".toList then (registerNamed r).map .rd else none
  | [.word m, .word r, .comma, .num n] =>
    match registerNamed r, wordOperand n with
    | some r, some v =>
      if m = "wr".toList then some (.wr r v) else if m = "expect".toList then some (.expect r v) else none
    | _, _ => none
  | [.word m, .num v, .comma, .num n] =>
    if m = "type.text".toList then (wordOperand v).map (.withData · (.typeText n)) else none
  | .word m :: .num t :: .comma :: rest =>
    match wordOperand t, bytesOperand rest with
    | some t, some s => if m = "chunk.crc".toList then some (.chunkCrc t s) else none
    | _, _ => none
  | .word m :: rest =>
    match bytesOperand rest with
    | some s => bytesStmt m s
    | none => none
  | _ => none

/-- The statements of a line: none of them on a line that is empty or a comment (R77). -/
def parseLine (line : List Char) : Option (List Stmt) :=
  match lex .start line with
  | none => none
  | some [] => some []
  | some ts => (stmtOfTokens ts).map (fun st => [st])

/-- The transactions of a program's lines (R77). -/
def assembleLines : List (List Char) → Option (List Txn)
  | [] => some []
  | line :: rest =>
    match (parseLine line).bind assembleStmts, assembleLines rest with
    | some ts, some us => some (ts ++ us)
    | _, _ => none

end Sys2Proof.Machine
end

