-- ==== Sys2Proof/Machine/Chunk.lean ====
section
/-! DEFINITION. The source's chunk operations that the rules compare the block with: `Chunk::serialize` (R61) and
`Chunk::parse` (R140, R141, R157). No command calls them; they stand for what the host does in software
(log entry 15). -/

namespace Sys2Proof.Machine

/-- `Chunk::serialize`: length, type, payload, checksum over type and payload (R61, R122). -/
def serialize (t : Word) (d : List Byte) : List Byte :=
  streamBytes (BitVec.ofNat 32 d.length) ++ streamBytes t ++ d ++ streamBytes (crc32 (streamBytes t ++ d))

/-- How `Chunk::parse` ends (R157). -/
inductive ParseResult where
  | invalidInput
  | invalidChunkLength
  | invalidCrc
  | chunk (type : Word) (payload : List Byte) (crc : Word)
  deriving DecidableEq, Repr

/-- The 4 bytes of a buffer from an offset, as a big-endian word (R58). -/
def wordAt (buf : List Byte) (off : Nat) : Word := assemble ((buf.drop off).take 4)

/-- `Chunk::parse` of a whole buffer under a payload-extent policy, in the source's step order (R157, R205): too short;
declared length against the buffer (R140); checksum of type and payload (R122). -/
def chunkParse (pol : Policy) (buf : List Byte) : ParseResult :=
  if buf.length < 12 then .invalidInput
  else
    match lengthCheck buf.length (wordAt buf 0).toNat pol with
    | none => .invalidChunkLength
    | some n =>
      if crc32 ((buf.drop 4).take (4 + n)) = wordAt buf (8 + n) then
        .chunk (wordAt buf 4) ((buf.drop 8).take n) (wordAt buf (8 + n))
      else .invalidCrc

end Sys2Proof.Machine
end

