-- ==== Sys2Proof/Safety.lean ====
section
/-! DEFINITION. The terms claims are stated in: runs of transactions (R56, R230), the invariants of R39 and R158, ways
to feed a frame (R157, R159), and what a frame's end says of `Chunk::parse` (R157). -/

namespace Sys2Proof.Machine

/-! ### Runs -/

/-- A sequence of transactions, applied in order (R56). -/
def runTxns : List Txn → State → Host.Outcome State Fault Refusal
  | [], s => .next s
  | t :: ts, s =>
    match transact t s with
    | .next s' => runTxns ts s'
    | .fault r => .fault r
    | .refused r => .refused r

/-- A state some run from reset ends in (R56, R222). -/
def Reachable (s : State) : Prop := ∃ txns, runTxns txns State.reset = .next s

/-- The next state of an outcome, if it is one. -/
def nextState : Host.Outcome State Fault Refusal → Option State
  | .next s => some s
  | .fault _ => none
  | .refused _ => none

/-- The block's part of two states is the same: R39's record, without the host's side. -/
abbrev SameBlock (s t : State) : Prop := { s with pending := t.pending, observed := t.observed } = t

/-! ### Invariants -/

/-- R39's invariants on FRESULT and PHASE (R204). -/
abbrev VerdictLegal (s : State) : Prop :=
  (s.fresult = .ok ∨ s.fresult = .invalidInput ∨ s.fresult = .invalidChunkLength ∨ s.fresult = .invalidCrc)
    ∧ (s.fresult ≠ .ok ↔ s.phase = .error)

/-- R39's invariants on an active frame. -/
abbrev FrameBounded (s : State) : Prop :=
  (active s.phase = true → s.pos.toNat < s.bufLen.toNat ∧ 12 ≤ s.bufLen.toNat)
    ∧ (s.phase = .type ∨ s.phase = .payload ∨ s.phase = .crcf → s.plen.toNat + 12 = s.bufLen.toNat)

/-- Where POS stands in each active phase (R26, R150). -/
abbrev PositionInField (s : State) : Prop :=
  (s.phase = .len → s.pos.toNat ≤ 3)
    ∧ (s.phase = .type → 4 ≤ s.pos.toNat ∧ s.pos.toNat ≤ 7)
    ∧ (s.phase = .payload → 8 ≤ s.pos.toNat ∧ s.pos.toNat < 8 + s.plen.toNat)
    ∧ (s.phase = .crcf → 8 + s.plen.toNat ≤ s.pos.toNat ∧ s.pos.toNat < 12 + s.plen.toNat)

/-- The invariant every step keeps: R39's, with R26's positions. -/
abbrev FrameInv (s : State) : Prop := VerdictLegal s ∧ FrameBounded s ∧ PositionInField s

/-! ### Feeding a frame -/

/-- A frame's bytes as the host sends them: one by FRAME_BYTE or four by FRAME_WORD (R154, R155). -/
inductive Piece where
  | byte (b : Byte)
  | word (w : Word)
  deriving DecidableEq, Repr

/-- The stream bytes of a piece. -/
def Piece.bytes : Piece → List Byte
  | .byte b => [b]
  | .word w => streamBytes w

/-- The transactions that feed a piece to the frame engine (R78). -/
def Piece.frameTxns : Piece → List Txn
  | .byte b => [commandTxn (.frameByte b)]
  | .word w => dataCommandTxns w .frameWord

/-- The transactions that feed a piece to the checksum (R78). -/
def Piece.crcTxns : Piece → List Txn
  | .byte b => [commandTxn (.crcByte b)]
  | .word w => dataCommandTxns w .crcWord

/-- Every byte of a buffer by FRAME_BYTE, in order, stopping early when the frame is no longer active (R157). -/
def feedFrame : List Byte → State → Host.Outcome State Fault Refusal
  | [], s => .next s
  | b :: bs, s =>
    if active s.phase then
      match transact (commandTxn (.frameByte b)) s with
      | .next t => feedFrame bs t
      | .fault r => .fault r
      | .refused r => .refused r
    else .next s

/-- What the end of a frame says of `Chunk::parse` of the buffer the host fed (R157); none when there is no verdict. -/
def verdictOf (buf : List Byte) (s : State) : Option ParseResult :=
  match s.phase, s.fresult with
  | .error, .invalidInput => some .invalidInput
  | .error, .invalidChunkLength => some .invalidChunkLength
  | .error, .invalidCrc => some .invalidCrc
  | .done, _ => some (.chunk s.chunkType ((buf.drop 8).take s.plen.toNat) s.scrc)
  | _, _ => none

/-- A buffer with one bit changed: bit k of the byte at index j (R129, R160). -/
def flipBit (buf : List Byte) (j k : Nat) : List Byte :=
  buf.modify j (fun b => b ^^^ (BitVec.ofNat 8 (2 ^ k)))

end Sys2Proof.Machine
end

