-- ==== Sys2Proof/Certificates/Slice0/Obligations.lean ====
section
/-! DEFINITION. The statements about PCD-1, each with the rule of spec/ it comes from. -/

open Sys2Proof Sys2Proof.Machine

/-! ### Command words -/

/-- Decoding the word of a well-formed command gives the command back (R70, R71, R72). -/
def Obligations.DecodeInvertsEncode : Prop :=
  ∀ i : Instr, i.wellFormed = true → decode (encode i) = .ok i

/-- A word that decodes is the word of the well-formed command it decodes to: no bit of it is dropped (R73, R76). -/
def Obligations.EncodeInvertsDecode : Prop :=
  ∀ (w : Word) (i : Instr), decode w = .ok i → i.wellFormed = true ∧ encode i = w

/-- R76: a word is legal exactly when a row of the mask and match table selects it, the row is that of the command it
decodes to, and no two rows match the same word. -/
def Obligations.MaskMatchTableSelectsTheCommand : Prop :=
  (∀ (w : Word) (i : Instr), decode w = .ok i → rowOf i ∈ commandRows ∧ (rowOf i).selects w)
    ∧ (∀ (w : Word) (r : CommandRow), r ∈ commandRows → r.selects w → ∃ i, decode w = .ok i ∧ rowOf i = r)
    ∧ (∀ (w : Word) (r q : CommandRow), r ∈ commandRows → q ∈ commandRows → r.selects w → q.selects w → r = q)

/-- R73: a word whose opcode is unassigned, or whose immediate breaks its opcode's format, sets RESULT to 6 and ERR, and
changes nothing else, in every state, an active frame's among them; every other word is legal, and decodes to the command
of its opcode and immediate (R71, R72). -/
def Obligations.WordsAreLegalOrChangeOnlyResultAndErr : Prop :=
  (∀ (op : BitVec 8) (imm : BitVec 24) (s : State),
    (op ∉ [0x00#8, 0x01, 0x02, 0x03, 0x04, 0x10, 0x11, 0x20, 0x30, 0x31, 0x32, 0x33, 0x7F]
      ∨ (op ∈ [0x00#8, 0x01, 0x03, 0x04, 0x10, 0x20, 0x30, 0x32, 0x33, 0x7F] ∧ imm ≠ 0)
      ∨ (op ∈ [0x02#8, 0x31] ∧ imm.extractLsb' 8 16 ≠ 0)) →
    transact (.write 0x00 (op ++ imm)) s = .next { s with result := .illegalCommand, err := true })
  ∧ (∀ (op : BitVec 8) (imm : BitVec 24),
    (op ∈ [0x00#8, 0x01, 0x03, 0x04, 0x10, 0x20, 0x30, 0x32, 0x33, 0x7F] ∧ imm = 0)
      ∨ (op ∈ [0x02#8, 0x31] ∧ imm.extractLsb' 8 16 = 0) ∨ op = 0x11#8 →
    ∃ i, decode (op ++ imm) = .ok i ∧ opcodeOf i = op ∧ immOf i = imm)

/-- One word of each family, written out from R71 and R72, decodes to its command. -/
def Obligations.WordsFromTheOpcodeMapDecode : Prop :=
  decode 0x00000000 = .ok .nop ∧ decode 0x02000061 = .ok (.crcByte 0x61) ∧ decode 0x03000000 = .ok .crcWord
    ∧ decode 0x10000000 = .ok .typeBytes ∧ decode 0x11000004 = .ok (.typeText 4)
    ∧ decode 0x11FFFFFF = .ok (.typeText 0xFFFFFF) ∧ decode 0x20000000 = .ok .lenParse
    ∧ decode 0x310000D8 = .ok (.frameByte 0xD8) ∧ decode 0x32000000 = .ok .frameWord
    ∧ decode 0x7F000000 = .ok .clrErr ∧ decode 0x00000001 = .error (.immediateNotZero 0x00 0x000001)
    ∧ decode 0x31000100 = .error (.reservedNotZero 0x31 0x000100)
    ∧ decode 0x05000000 = .error (.unassignedOpcode 0x05)

/-! ### Transactions and steps -/

/-- When the host's next transaction writes to CMD a word that decodes to a command, the step is exec of that command,
with the transaction taken off the pending ones (R54, R70, R75; the pending list is the model's, log entry 1). -/
def Obligations.StepExecutesTheDecodedCommand : Prop :=
  ∀ (s : State) (off : BitVec 6) (w : Word) (rest : List Txn) (i : Instr),
    s.pending = .write off w :: rest → off &&& 0x3C = 0x00 → decode w = .ok i →
    step s = exec i { s with pending := rest }

/-- As many steps as transactions carry them out in order, and leave the later ones pending (R56, R57, R230; the pending
list is the model's, log entry 1). -/
def Obligations.StepsCarryOutTransactionsInOrder : Prop :=
  ∀ (ts rest : List Txn) (s : State), s.pending = ts ++ rest →
    Host.Core.run Sys2Proof.core ts.length s = runTxns ts { s with pending := rest }

/-- Every step answers a next state: an error is a result code and never stops the block (R56, R200, R208); with
nothing pending the model's step leaves the state as it is (log entry 2). -/
def Obligations.EveryStepAnswersANextState : Prop :=
  (∀ s : State, ∃ t, step s = .next t) ∧ ∀ s : State, s.pending = [] → step s = .next s

/-- R53, R201, R26: what a read of each slot returns, STATUS by the numbers of the eight result codes and the seven phases, and that a read changes no register; the word read joins the host's
observations (log entry 3). -/
def Obligations.ReadReturnsTheSlotAndChangesNoRegister : Prop :=
  ∀ (off : BitVec 6) (s : State),
    let code : ResultCode → Nat := fun
      | .ok => 0
      | .invalidInput => 1
      | .invalidChunkLength => 2
      | .invalidCrc => 3
      | .invalidChunkTypeLength => 4
      | .invalidChunkTypeCharacter => 5
      | .illegalCommand => 6
      | .sequenceError => 7
    let phase : Phase → Nat := fun
      | .idle => 0
      | .len => 1
      | .type => 2
      | .payload => 3
      | .crcf => 4
      | .done => 5
      | .error => 6
    transact (.read off) s = .next { s with observed := s.observed ++ [busRead off s] }
    ∧ rdata (.read off) s = busRead off s
    ∧ (off &&& 0x3C = 0x00 → busRead off s = 0)
    ∧ (off &&& 0x3C = 0x04 → busRead off s = s.data)
    ∧ (off &&& 0x3C = 0x08 → (busRead off s).toNat
        = 4096 * code s.fresult + 256 * phase s.phase + (if s.err then 16 else 0) + code s.result)
    ∧ (off &&& 0x3C = 0x0C → busRead off s = if s.lenpol = .bound then 1 else 0)
    ∧ (off &&& 0x3C = 0x10 → busRead off s = s.bufLen)
    ∧ (off &&& 0x3C = 0x14 → busRead off s = s.crc)
    ∧ (off &&& 0x3C = 0x18 → busRead off s = s.crc ^^^ 0xFFFFFFFF)
    ∧ (off &&& 0x3C = 0x1C → busRead off s = s.chunkType)
    ∧ (off &&& 0x3C = 0x20 → busRead off s = typeFlags s.chunkType)
    ∧ (off &&& 0x3C = 0x24 → busRead off s = s.len)
    ∧ (off &&& 0x3C = 0x28 → busRead off s = s.plen)
    ∧ (off &&& 0x3C = 0x2C → busRead off s = s.scrc)
    ∧ (off &&& 0x3C = 0x30 → busRead off s = s.pos)
    ∧ (off &&& 0x3C = 0x34 ∨ off &&& 0x3C = 0x38 ∨ off &&& 0x3C = 0x3C → busRead off s = 0)

/-- R54 and R55: what a write to each slot does: CMD issues a command, DATA is stored, CTRL and BUF_LEN are stored only
while no frame is active, and every other slot ignores the write. -/
def Obligations.WriteReachesTheSlotOrIsIgnored : Prop :=
  ∀ (off : BitVec 6) (v : Word) (s : State),
    (off &&& 0x3C = 0x00 → transact (.write off v) s = issueCommand v s)
    ∧ (off &&& 0x3C = 0x04 → transact (.write off v) s = .next { s with data := v })
    ∧ (off &&& 0x3C = 0x0C → active s.phase = false →
        transact (.write off v) s = .next { s with lenpol := if v.toNat % 2 = 1 then .bound else .strict })
    ∧ (off &&& 0x3C = 0x10 → active s.phase = false → transact (.write off v) s = .next { s with bufLen := v })
    ∧ (off &&& 0x3C = 0x0C ∨ off &&& 0x3C = 0x10 → active s.phase = true → transact (.write off v) s = .next s)
    ∧ (off &&& 0x3C ∉ [0x00#6, 0x04, 0x0C, 0x10] → transact (.write off v) s = .next s)

/-- R221, R38: a reset transaction sets every register to its reset value in any state, and CRC_OUT, TFLAGS and STATUS
then read 0; what the host has still to issue and has read stays (log entry 4). -/
def Obligations.ResetSetsEveryRegister : Prop :=
  ∀ s : State, ∃ t, transact .reset s = .next t
    ∧ t = { data := 0, result := .ok, err := false, phase := .idle, fresult := .ok, lenpol := .strict, bufLen := 0,
            crc := 0xFFFFFFFF, chunkType := 0, len := 0, plen := 0, scrc := 0, pos := 0, acc := 0,
            pending := s.pending, observed := s.observed }
    ∧ busRead 0x18 t = 0 ∧ busRead 0x20 t = 0 ∧ busRead 0x08 t = 0

/-- R220, R221: clock cycles do what the transactions that complete in them do, in order: stalled and empty cycles
change nothing, and a cycle with rst high is a reset whatever access is presented (the ports: log entry 11). -/
def Obligations.StallCyclesChangeNoOutcome : Prop :=
  (∀ (ps : List Pins) (s : State), portCycles ps s = runTxns (pinTxns ps) s)
    ∧ (∀ (p : Pins) (s : State), p.rst = true → portCycle p s = transact .reset s)
    ∧ (∀ (p : Pins) (s : State), p.rst = false → p.ready = false ∨ p.sel = false → portCycle p s = .next s)
    ∧ (∀ (p : Pins) (s : State), p.rst = false → p.ready = true → p.sel = true → p.we = false →
        portCycle p s = transact (.read (p.addr ++ 0#2)) s ∧ pinRdata p s = busRead (p.addr ++ 0#2) s)
    ∧ (∀ (p : Pins) (s : State), p.rst = false → p.ready = true → p.sel = true → p.we = true →
        portCycle p s = transact (.write (p.addr ++ 0#2) p.wdata) s)

/-! ### Control commands -/

/-- R180: NOP sets RESULT to 0 and changes nothing else, in every phase; its opcode with IMM24 ≠ 0 is illegal. -/
def Obligations.NopClearsResultOnly : Prop :=
  ∀ (s : State) (imm : BitVec 24),
    exec .nop s = .next { s with result := .ok }
    ∧ transact (.write 0x00 0x00000000) s = exec .nop s
    ∧ (imm ≠ 0 → transact (.write 0x00 (0x00#8 ++ imm)) s = .next { s with result := .illegalCommand, err := true })

/-- R181: CLR_ERR sets ERR and RESULT to 0 and changes nothing else, in every phase; its opcode with IMM24 ≠ 0 is illegal
and sets ERR. -/
def Obligations.ClrErrClearsErrAndResult : Prop :=
  ∀ (s : State) (imm : BitVec 24),
    exec .clrErr s = .next { s with err := false, result := .ok }
    ∧ transact (.write 0x00 0x7F000000) s = exec .clrErr s
    ∧ (imm ≠ 0 → transact (.write 0x00 (0x7F#8 ++ imm)) s = .next { s with result := .illegalCommand, err := true })

/-! ### CRC commands -/

/-- R124: CRC_INIT seeds CRC while no frame is active, and CRC_OUT then reads 0; during a frame it is refused with 7;
with IMM24 ≠ 0 it is illegal. -/
def Obligations.CrcInitSeedsTheChecksum : Prop :=
  ∀ (s : State) (imm : BitVec 24),
    (active s.phase = false → exec .crcInit s = .next { s with crc := 0xFFFFFFFF, result := .ok }
      ∧ busRead 0x18 { s with crc := 0xFFFFFFFF, result := .ok } = 0)
    ∧ (active s.phase = true → exec .crcInit s = .next { s with result := .sequenceError, err := true })
    ∧ transact (.write 0x00 0x01000000) s = exec .crcInit s
    ∧ (imm ≠ 0 → transact (.write 0x00 (0x01#8 ++ imm)) s = .next { s with result := .illegalCommand, err := true })

/-- R125, R123: CRC_BYTE updates CRC by one byte, here in the table form of R123; during a frame it is refused with 7; a
word of its opcode carries the byte in [7:0] and is illegal with IMM24[23:8] ≠ 0. -/
def Obligations.CrcByteUpdatesTheChecksum : Prop :=
  ∀ (s : State) (b : Byte) (imm : BitVec 24),
    (active s.phase = false → exec (.crcByte b) s
      = .next { s with crc := (s.crc >>> 8) ^^^ crcByte 0 ((s.crc ^^^ zext32 b).extractLsb' 0 8), result := .ok })
    ∧ (active s.phase = true → exec (.crcByte b) s = .next { s with result := .sequenceError, err := true })
    ∧ transact (.write 0x00 (0x020000#24 ++ b)) s = exec (.crcByte b) s
    ∧ (imm.extractLsb' 8 16 ≠ 0 →
        transact (.write 0x00 (0x02#8 ++ imm)) s = .next { s with result := .illegalCommand, err := true })

/-- R126: CRC_WORD updates CRC by the 4 bytes of DATA, DATA[31:24] first; during a frame it is refused with 7; with
IMM24 ≠ 0 it is illegal. -/
def Obligations.CrcWordUpdatesByFourBytes : Prop :=
  ∀ (s : State) (imm : BitVec 24),
    (active s.phase = false → exec .crcWord s
      = .next { s with
          crc := crcByte (crcByte (crcByte (crcByte s.crc (s.data.extractLsb' 24 8)) (s.data.extractLsb' 16 8))
            (s.data.extractLsb' 8 8)) (s.data.extractLsb' 0 8),
          result := .ok })
    ∧ (active s.phase = true → exec .crcWord s = .next { s with result := .sequenceError, err := true })
    ∧ transact (.write 0x00 0x03000000) s = exec .crcWord s
    ∧ (imm ≠ 0 → transact (.write 0x00 (0x03#8 ++ imm)) s = .next { s with result := .illegalCommand, err := true })

/-- R127: CRC_CHECK records DATA in SCRC and answers 0 when CRC_OUT is DATA, else 3, leaving CRC as it is; during a frame
it is refused with 7; with IMM24 ≠ 0 it is illegal. -/
def Obligations.CrcCheckComparesWithData : Prop :=
  ∀ (s : State) (imm : BitVec 24),
    (active s.phase = false → s.crc ^^^ 0xFFFFFFFF = s.data →
      exec .crcCheck s = .next { s with scrc := s.data, result := .ok })
    ∧ (active s.phase = false → s.crc ^^^ 0xFFFFFFFF ≠ s.data →
      exec .crcCheck s = .next { s with scrc := s.data, result := .invalidCrc, err := true })
    ∧ (active s.phase = true → exec .crcCheck s = .next { s with result := .sequenceError, err := true })
    ∧ transact (.write 0x00 0x04000000) s = exec .crcCheck s
    ∧ (imm ≠ 0 → transact (.write 0x00 (0x04#8 ++ imm)) s = .next { s with result := .illegalCommand, err := true })

/-- R125, R3: the published values of the variant: single bytes, the check value and the table's entries (general
knowledge in the spec: log entry 8). -/
def Obligations.CrcValuesOfTheVariant : Prop :=
  crcByte 0xFFFFFFFF 0x00 = 0x2DFD1072 ∧ crcByte 0x00000000 0x00 = 0x00000000 ∧ crcByte 0xFFFFFFFF 0x61 = 0x174841BC
    ∧ crc32 [0x31, 0x32, 0x33, 0x34, 0x35, 0x36, 0x37, 0x38, 0x39] = 0xCBF43926
    ∧ crc32 [0x52, 0x75, 0x53, 0x74] = 0xD484093C ∧ crcByte 0 0x01 = 0x77073096 ∧ crcByte 0 0x02 = 0xEE0E612C
    ∧ crcByte 0 0x80 = 0xEDB88320 ∧ crcByte 0 0xFF = 0x2D02EF8D

/-- R125: feeding the finished checksum's 4 bytes, low byte first, after any message leaves the residue (general
knowledge in the spec: log entry 8). -/
def Obligations.CrcResidueAfterItsOwnChecksum : Prop :=
  ∀ (m : List Byte),
    crcSeq 0xFFFFFFFF (m ++ (streamBytes (crc32 m)).reverse) = 0xDEBB20E3

/-- R121, R130: with no frame active, a message fed as checksum words and bytes in any split leaves CRC as if it had been
fed byte by byte; every command answers 0, and only DATA and RESULT are written besides. -/
def Obligations.ChecksumDoesNotDependOnTheSplit : Prop :=
  ∀ (pieces : List Piece) (s : State), active s.phase = false →
    ∃ d r, runTxns (pieces.flatMap Piece.crcTxns) s
        = .next { s with crc := crcSeq s.crc (pieces.flatMap Piece.bytes), data := d, result := r }
      ∧ (pieces = [] → d = s.data ∧ r = s.result) ∧ (pieces ≠ [] → r = .ok)

/-- R128: a word fed by CRC_WORD and its 4 bytes fed by CRC_BYTE leave the same state but for DATA. -/
def Obligations.CrcWordIsFourCrcBytes : Prop :=
  ∀ (s : State) (b0 b1 b2 b3 : Byte), active s.phase = false →
    ∃ t u, runTxns [.write 0x04 (b0 ++ b1 ++ b2 ++ b3), .write 0x00 0x03000000] s = .next t
      ∧ runTxns ([b0, b1, b2, b3].map fun b => .write 0x00 (0x020000#24 ++ b)) s = .next u
      ∧ u = { t with data := s.data }

/-- R130: the pseudo-instruction `chunk.crc t, d` leaves the checksum of the type's bytes and the payload in CRC_OUT, and no
command of it fails. -/
def Obligations.ChunkNewChecksum : Prop :=
  ∀ (t : Word) (d : List Byte) (s : State), active s.phase = false →
    ∃ ts u, assembleStmt (.chunkCrc t d) = some ts ∧ runTxns ts s = .next u
      ∧ busRead 0x18 u = crc32 (streamBytes t ++ d) ∧ u.result = .ok ∧ u.err = s.err

/-- R129: a message with one bit changed has another checksum. -/
def Obligations.OneFlippedBitChangesTheChecksum : Prop :=
  ∀ (m : List Byte) (j k : Nat), j < m.length → k < 8 → crc32 (flipBit m j k) ≠ crc32 m

/-! ### ChunkType commands -/

/-- R101: the six property flags of a type and the zero bits above them, by the letter ranges of R100. -/
def Obligations.TypeFlagsAreTheLetterTests : Prop :=
  ∀ (t : Word),
    let upper (b : Byte) : Prop := 0x41 ≤ b.toNat ∧ b.toNat ≤ 0x5A
    let lower (b : Byte) : Prop := 0x61 ≤ b.toNat ∧ b.toNat ≤ 0x7A
    ((typeFlags t).getLsbD 0 = true ↔ upper (t.extractLsb' 24 8))
    ∧ ((typeFlags t).getLsbD 1 = true ↔ upper (t.extractLsb' 16 8))
    ∧ ((typeFlags t).getLsbD 2 = true ↔ upper (t.extractLsb' 8 8))
    ∧ ((typeFlags t).getLsbD 3 = true ↔ lower (t.extractLsb' 0 8))
    ∧ ((typeFlags t).getLsbD 4 = true ↔ upper (t.extractLsb' 8 8))
    ∧ ((typeFlags t).getLsbD 5 = true ↔
        (upper (t.extractLsb' 24 8) ∨ lower (t.extractLsb' 24 8)) ∧ (upper (t.extractLsb' 16 8) ∨ lower (t.extractLsb' 16 8))
        ∧ (upper (t.extractLsb' 8 8) ∨ lower (t.extractLsb' 8 8)) ∧ (upper (t.extractLsb' 0 8) ∨ lower (t.extractLsb' 0 8)))
    ∧ (typeFlags t).toNat < 64

/-- R102: for a type of 4 letters the four properties are bit 5 of each byte. -/
def Obligations.LetterTypeFlagsAreBitFive : Prop :=
  ∀ (t : Word), (typeFlags t).getLsbD 5 = true →
    (typeFlags t).getLsbD 0 = !t.getLsbD 29 ∧ (typeFlags t).getLsbD 1 = !t.getLsbD 21
    ∧ (typeFlags t).getLsbD 2 = !t.getLsbD 13 ∧ (typeFlags t).getLsbD 3 = t.getLsbD 5

/-- R103: TYPE_BYTES puts DATA in TYPE unchecked; during a frame it is refused with 7; with IMM24 ≠ 0 it is illegal. -/
def Obligations.TypeBytesTakesData : Prop :=
  ∀ (s : State) (imm : BitVec 24),
    (active s.phase = false → exec .typeBytes s = .next { s with chunkType := s.data, result := .ok })
    ∧ (active s.phase = true → exec .typeBytes s = .next { s with result := .sequenceError, err := true })
    ∧ transact (.write 0x00 0x10000000) s = exec .typeBytes s
    ∧ (imm ≠ 0 → transact (.write 0x00 (0x10#8 ++ imm)) s = .next { s with result := .illegalCommand, err := true })

/-- R104: TYPE_TEXT: a frame active first (7), then the length (4), then the characters (5); TYPE takes DATA only when none
applies. Every 24-bit count is legal. -/
def Obligations.TypeTextChecksLengthThenLetters : Prop :=
  ∀ (s : State) (n : Nat) (imm : BitVec 24),
    let letter (b : Byte) : Prop := (0x41 ≤ b.toNat ∧ b.toNat ≤ 0x5A) ∨ (0x61 ≤ b.toNat ∧ b.toNat ≤ 0x7A)
    let letters : Prop := letter (s.data.extractLsb' 24 8) ∧ letter (s.data.extractLsb' 16 8)
      ∧ letter (s.data.extractLsb' 8 8) ∧ letter (s.data.extractLsb' 0 8)
    (active s.phase = true → exec (.typeText n) s = .next { s with result := .sequenceError, err := true })
    ∧ (active s.phase = false → n ≠ 4 →
        exec (.typeText n) s = .next { s with result := .invalidChunkTypeLength, err := true })
    ∧ (active s.phase = false → n = 4 → ¬ letters →
        exec (.typeText n) s = .next { s with result := .invalidChunkTypeCharacter, err := true })
    ∧ (active s.phase = false → n = 4 → letters →
        exec (.typeText n) s = .next { s with chunkType := s.data, result := .ok })
    ∧ transact (.write 0x00 (0x11#8 ++ imm)) s = exec (.typeText imm.toNat) s

/-- R106: with no frame active, `type.text BE32(s), 4` on 4 letters and `type.bytes v` on any word end with RESULT 0 and
TYPE the word, as the host reads it back. -/
def Obligations.TypeRoundTrip : Prop :=
  ∀ (s : State) (v : Word), active s.phase = false →
    (allLetters v = true → ∃ ts t, assembleStmt (.withData v (.typeText 4)) = some ts ∧ runTxns ts s = .next t
      ∧ t.result = .ok ∧ busRead 0x1C t = v)
    ∧ (∃ ts t, assembleStmt (.withData v .typeBytes) = some ts ∧ runTxns ts s = .next t
      ∧ t.result = .ok ∧ busRead 0x1C t = v)

/-! ### Length command -/

/-- R142, R140, R141: LEN_PARSE: a frame active first (7), then BUF_LEN < 12 (1), then the length check without wrap (2, with
LEN written), else LEN and PLEN = BUF_LEN − 12; with IMM24 ≠ 0 it is illegal. -/
def Obligations.LenParseChecksTheDeclaredLength : Prop :=
  ∀ (s : State) (imm : BitVec 24),
    let inconsistent : Prop :=
      s.data.toNat + 12 > s.bufLen.toNat ∨ (s.lenpol = .strict ∧ s.data.toNat + 12 ≠ s.bufLen.toNat)
    (active s.phase = true → exec .lenParse s = .next { s with result := .sequenceError, err := true })
    ∧ (active s.phase = false → s.bufLen.toNat < 12 →
        exec .lenParse s = .next { s with result := .invalidInput, err := true })
    ∧ (active s.phase = false → 12 ≤ s.bufLen.toNat → inconsistent →
        exec .lenParse s = .next { s with len := s.data, result := .invalidChunkLength, err := true })
    ∧ (active s.phase = false → 12 ≤ s.bufLen.toNat → ¬ inconsistent →
        exec .lenParse s = .next { s with len := s.data, plen := s.bufLen - 12, result := .ok })
    ∧ transact (.write 0x00 0x20000000) s = exec .lenParse s
    ∧ (imm ≠ 0 → transact (.write 0x00 (0x20#8 ++ imm)) s = .next { s with result := .illegalCommand, err := true })

/-- R143: which declared lengths LEN_PARSE accepts under each policy, and PLEN afterwards; STRICT accepts nothing BOUND
refuses. -/
def Obligations.LenParseAcceptanceSets : Prop :=
  ∀ (s : State), active s.phase = false → ∃ t, exec .lenParse s = .next t
    ∧ (s.lenpol = .strict → (t.result = .ok ↔ 12 ≤ s.bufLen.toNat ∧ s.data.toNat = s.bufLen.toNat - 12))
    ∧ (s.lenpol = .bound → (t.result = .ok ↔ 12 ≤ s.bufLen.toNat ∧ s.data.toNat ≤ s.bufLen.toNat - 12))
    ∧ (t.result = .ok → t.plen.toNat = s.bufLen.toNat - 12 ∧ t.plen.toNat ≤ Config.maxPayload
        ∧ ∃ u, exec .lenParse { s with lenpol := .bound } = .next u ∧ u.result = .ok ∧ u.plen = t.plen)

/-- R144: LEN_PARSE's code 1 depends on BUF_LEN alone, and its outcome on BUF_LEN, DATA and LENPOL alone: two states that
agree on these get the same code and the same LEN and PLEN when it passes. -/
def Obligations.LenParseDependsOnItsOperandsOnly : Prop :=
  ∀ (s s' : State), active s.phase = false → active s'.phase = false → s.bufLen = s'.bufLen →
    ∃ t t', exec .lenParse s = .next t ∧ exec .lenParse s' = .next t'
      ∧ (t.result = .invalidInput ↔ t'.result = .invalidInput)
      ∧ (s.data = s'.data → s.lenpol = s'.lenpol → t.result = t'.result
          ∧ (t.result = .ok → t.len = t'.len ∧ t.plen = t'.plen))

/-! ### Frame commands -/

/-- R153: FRAME_START in any phase clears the frame's registers, seeds CRC, keeps TYPE, and enters LEN, or ERROR with
verdict 1 when BUF_LEN < 12; with IMM24 ≠ 0 it is illegal. -/
def Obligations.FrameStartBeginsAFrame : Prop :=
  ∀ (s : State) (imm : BitVec 24),
    (12 ≤ s.bufLen.toNat → exec .frameStart s
      = .next { s with pos := 0, acc := 0, len := 0, plen := 0, scrc := 0, crc := 0xFFFFFFFF, fresult := .ok,
                       phase := .len, result := .ok })
    ∧ (s.bufLen.toNat < 12 → exec .frameStart s
      = .next { s with pos := 0, acc := 0, len := 0, plen := 0, scrc := 0, crc := 0xFFFFFFFF, fresult := .invalidInput,
                       phase := .error, result := .invalidInput, err := true })
    ∧ transact (.write 0x00 0x30000000) s = exec .frameStart s
    ∧ (imm ≠ 0 → transact (.write 0x00 (0x30#8 ++ imm)) s = .next { s with result := .illegalCommand, err := true })

/-- R156: FRAME_ABORT goes to IDLE and clears the verdict in any phase, and keeps ERR and every other register; with IMM24 ≠
0 it is illegal. -/
def Obligations.FrameAbortGoesIdle : Prop :=
  ∀ (s : State) (imm : BitVec 24),
    exec .frameAbort s = .next { s with phase := .idle, fresult := .ok, result := .ok }
    ∧ transact (.write 0x00 0x33000000) s = exec .frameAbort s
    ∧ (imm ≠ 0 → transact (.write 0x00 (0x33#8 ++ imm)) s = .next { s with result := .illegalCommand, err := true })

/-- R152, phase LEN: a FRAME_BYTE enters ACC; the byte at POS 3 completes LEN and gives the length verdict, and a pass
writes PLEN = BUF_LEN − 12. -/
def Obligations.FrameByteInTheLengthField : Prop :=
  ∀ (s : State) (b : Byte), s.phase = .len →
    let field : Word := (s.acc <<< 8) ||| b.zeroExtend 32
    let inconsistent : Prop :=
      field.toNat + 12 > s.bufLen.toNat ∨ (s.lenpol = .strict ∧ field.toNat + 12 ≠ s.bufLen.toNat)
    (s.pos ≠ 3 → exec (.frameByte b) s = .next { s with pos := s.pos + 1, acc := field, result := .ok })
    ∧ (s.pos = 3 → inconsistent → exec (.frameByte b) s
        = .next { s with pos := 4, acc := field, len := field, phase := .error, fresult := .invalidChunkLength,
                         result := .invalidChunkLength, err := true })
    ∧ (s.pos = 3 → ¬ inconsistent → exec (.frameByte b) s
        = .next { s with pos := 4, acc := field, len := field, plen := s.bufLen - 12, phase := .type, result := .ok })

/-- R152, phase TYPE: a FRAME_BYTE enters the checksum and ACC; the byte at POS 7 completes TYPE, unchecked, and an empty
payload goes straight to the stored CRC. -/
def Obligations.FrameByteInTheTypeField : Prop :=
  ∀ (s : State) (b : Byte), s.phase = .type →
    let field : Word := (s.acc <<< 8) ||| b.zeroExtend 32
    (s.pos ≠ 7 → exec (.frameByte b) s
      = .next { s with pos := s.pos + 1, acc := field, crc := crcByte s.crc b, result := .ok })
    ∧ (s.pos = 7 → exec (.frameByte b) s
      = .next { s with pos := 8, acc := field, crc := crcByte s.crc b, chunkType := field,
                       phase := if s.plen.toNat = 0 then .crcf else .payload, result := .ok })

/-- R152, phase PAYLOAD: a FRAME_BYTE enters the checksum and not ACC; the byte at POS 7 + PLEN ends the payload. -/
def Obligations.FrameByteInThePayload : Prop :=
  ∀ (s : State) (b : Byte), s.phase = .payload →
    exec (.frameByte b) s
      = .next { s with pos := s.pos + 1, crc := crcByte s.crc b,
                       phase := if s.pos.toNat = 7 + s.plen.toNat then .crcf else .payload, result := .ok }

/-- R152, phase CRCF: a FRAME_BYTE enters ACC and not the checksum; the byte at POS 11 + PLEN completes SCRC and gives the
frame's verdict. -/
def Obligations.FrameByteInTheStoredCrc : Prop :=
  ∀ (s : State) (b : Byte), s.phase = .crcf →
    let field : Word := (s.acc <<< 8) ||| b.zeroExtend 32
    (s.pos.toNat ≠ 11 + s.plen.toNat →
      exec (.frameByte b) s = .next { s with pos := s.pos + 1, acc := field, result := .ok })
    ∧ (s.pos.toNat = 11 + s.plen.toNat → s.crc ^^^ 0xFFFFFFFF = field → exec (.frameByte b) s
        = .next { s with pos := s.pos + 1, acc := field, scrc := field, phase := .done, result := .ok })
    ∧ (s.pos.toNat = 11 + s.plen.toNat → s.crc ^^^ 0xFFFFFFFF ≠ field → exec (.frameByte b) s
        = .next { s with pos := s.pos + 1, acc := field, scrc := field, phase := .error, fresult := .invalidCrc,
                         result := .invalidCrc, err := true })

/-- R154, R155: FRAME_BYTE with no frame active, and FRAME_WORD with no frame active or fewer than 4 bytes left, answer 7 and
consume nothing; so do their illegal words, with 6. -/
def Obligations.FrameBytesRefusedOutOfSequence : Prop :=
  ∀ (s : State) (b : Byte) (imm : BitVec 24),
    (active s.phase = false → exec (.frameByte b) s = .next { s with result := .sequenceError, err := true })
    ∧ (active s.phase = false ∨ s.bufLen.toNat < s.pos.toNat + 4 →
        exec .frameWord s = .next { s with result := .sequenceError, err := true })
    ∧ transact (.write 0x00 (0x310000#24 ++ b)) s = exec (.frameByte b) s
    ∧ transact (.write 0x00 0x32000000) s = exec .frameWord s
    ∧ (imm.extractLsb' 8 16 ≠ 0 →
        transact (.write 0x00 (0x31#8 ++ imm)) s = .next { s with result := .illegalCommand, err := true })
    ∧ (imm ≠ 0 → transact (.write 0x00 (0x32#8 ++ imm)) s = .next { s with result := .illegalCommand, err := true })

/-- R155, R60: a FRAME_WORD at the frame's start is the whole length field, big-endian. -/
def Obligations.FrameWordIsTheLengthField : Prop :=
  ∀ (s : State), s.phase = .len → s.pos = 0 → 4 ≤ s.bufLen.toNat →
    let inconsistent : Prop :=
      s.data.toNat + 12 > s.bufLen.toNat ∨ (s.lenpol = .strict ∧ s.data.toNat + 12 ≠ s.bufLen.toNat)
    (inconsistent → exec .frameWord s
      = .next { s with pos := 4, acc := s.data, len := s.data, phase := .error, fresult := .invalidChunkLength,
                       result := .invalidChunkLength, err := true })
    ∧ (¬ inconsistent → exec .frameWord s
      = .next { s with pos := 4, acc := s.data, len := s.data, plen := s.bufLen - 12, phase := .type, result := .ok })

/-- R155, R60: a FRAME_WORD at POS 4 is the whole type field. -/
def Obligations.FrameWordIsTheTypeField : Prop :=
  ∀ (s : State), s.phase = .type → s.pos = 4 → 8 ≤ s.bufLen.toNat →
    exec .frameWord s
      = .next { s with pos := 8, acc := s.data, chunkType := s.data, crc := crcSeq s.crc (streamBytes s.data),
                       phase := if s.plen.toNat = 0 then .crcf else .payload, result := .ok }

/-- R155: a FRAME_WORD inside the payload enters the checksum. -/
def Obligations.FrameWordInThePayload : Prop :=
  ∀ (s : State), s.phase = .payload → s.pos.toNat + 4 ≤ 8 + s.plen.toNat → s.pos.toNat + 4 ≤ s.bufLen.toNat →
    exec .frameWord s
      = .next { s with pos := s.pos + 4, crc := crcSeq s.crc (streamBytes s.data),
                       phase := if s.pos.toNat + 4 = 8 + s.plen.toNat then .crcf else .payload, result := .ok }

/-- R155, R60: a FRAME_WORD at POS 8 + PLEN is the whole stored CRC and gives the frame's verdict. -/
def Obligations.FrameWordIsTheStoredCrc : Prop :=
  ∀ (s : State), s.phase = .crcf → s.pos.toNat = 8 + s.plen.toNat → s.pos.toNat + 4 ≤ s.bufLen.toNat →
    (s.crc ^^^ 0xFFFFFFFF = s.data → exec .frameWord s
      = .next { s with pos := s.pos + 4, acc := s.data, scrc := s.data, phase := .done, result := .ok })
    ∧ (s.crc ^^^ 0xFFFFFFFF ≠ s.data → exec .frameWord s
      = .next { s with pos := s.pos + 4, acc := s.data, scrc := s.data, phase := .error, fresult := .invalidCrc,
                       result := .invalidCrc, err := true })

/-- R155: while at least 4 bytes of the frame remain, FRAME_WORD is its bytes fed by FRAME_BYTE up to the first error, in
every state the invariant allows. -/
def Obligations.FrameWordIsFrameBytesInOrder : Prop :=
  ∀ (s : State), FrameInv s → active s.phase = true → s.pos.toNat + 4 ≤ s.bufLen.toNat →
    exec .frameWord s = feedFrame (streamBytes s.data) s

/-- R155: while at least 4 bytes of the frame remain, FRAME_WORD completes: it consumes all 4 bytes and answers 0, or stops
with 2 at POS 4, or with 3 at the frame's end; it touches neither the operands nor the configuration. -/
def Obligations.FrameWordConsumesFourBytesOrFails : Prop :=
  ∀ (s : State), FrameInv s → active s.phase = true → s.pos.toNat + 4 ≤ s.bufLen.toNat →
    ∃ t, exec .frameWord s = .next t
      ∧ t.data = s.data ∧ t.lenpol = s.lenpol ∧ t.bufLen = s.bufLen
      ∧ ((t.result = .ok ∧ t.pos.toNat = s.pos.toNat + 4 ∧ t.err = s.err ∧ t.fresult = s.fresult)
        ∨ (t.result = .invalidChunkLength ∧ t.pos.toNat = 4 ∧ t.fresult = .invalidChunkLength ∧ t.err = true)
        ∨ (t.result = .invalidCrc ∧ t.pos = t.bufLen ∧ t.fresult = .invalidCrc ∧ t.err = true))

/-! ### Rules over all commands and transactions -/

/-- R22, R24, R25, R200: every command completes, and none writes DATA, CTRL or BUF_LEN, nor the host's side. -/
def Obligations.NoCommandWritesTheOperandRegisters : Prop :=
  ∀ (i : Instr) (s : State), ∃ t, exec i s = .next t
    ∧ t.data = s.data ∧ t.lenpol = s.lenpol ∧ t.bufLen = s.bufLen ∧ t.pending = s.pending ∧ t.observed = s.observed

/-- R75, R225: the seven standalone commands are refused with 7 during an active frame and change nothing but RESULT and
ERR. -/
def Obligations.StandaloneCommandsRefusedDuringAFrame : Prop :=
  ∀ (i : Instr) (s : State), opcodeOf i ∈ [0x01#8, 0x02, 0x03, 0x04, 0x10, 0x11, 0x20] → active s.phase = true →
    exec i s = .next { s with result := .sequenceError, err := true }

/-- R151, R204: no transaction but a FRAME command's word and reset changes PHASE, FRESULT, POS or ACC. -/
def Obligations.OnlyFrameCommandsMoveTheFrame : Prop :=
  ∀ (t : Txn) (s u : State), transact t s = .next u → t ≠ .reset →
    (∀ off w, t = .write off w → off &&& 0x3C = 0x00 → w.extractLsb' 28 4 ≠ 0x3) →
    u.phase = s.phase ∧ u.fresult = s.fresult ∧ u.pos = s.pos ∧ u.acc = s.acc

/-- R202, R203: only a write to CMD or a reset changes RESULT; after a write to CMD, RESULT ≠ 0 sets ERR; and ERR, once set,
is cleared only by CLR_ERR's word and reset. -/
def Obligations.ErrIsSticky : Prop :=
  ∀ (t : Txn) (s u : State), transact t s = .next u → t ≠ .reset →
    ((∀ off w, t = .write off w → off &&& 0x3C ≠ 0x00) → u.result = s.result ∧ u.err = s.err)
    ∧ (∀ off w, t = .write off w → off &&& 0x3C = 0x00 → u.result ≠ .ok → u.err = true)
    ∧ (∀ off w, t = .write off w → off &&& 0x3C = 0x00 → u.result = .ok → w ≠ 0x7F000000 → u.err = s.err)
    ∧ (s.err = true → (∀ off, t = .write off 0x7F000000 → off &&& 0x3C ≠ 0x00) → u.err = true)

/-- R200, R202: what RESULT and ERR held before a command influences nothing but the ERR left after it: RESULT after a
command is that command's outcome alone. -/
def Obligations.ResultAndErrInfluenceNoCommand : Prop :=
  ∀ (i : Instr) (s : State) (r : ResultCode) (e : Bool), ∃ t u,
    exec i s = .next t ∧ exec i { s with result := r, err := e } = .next u ∧ u = { t with err := u.err }

/-- R77, R78: every statement but `wr` assembles to transactions whose CMD writes are all legal words, and none is refused but a
count above 0xFFFFFF. Then each form's transactions: a command is one CMD write of a word that decodes to it, with DATA
written first where it has an operand; `reset`, `rd` and `expect` are one transaction; `type.str` saturates its length;
`crc.feed` and `frame.feed` take groups of 4 bytes as words and the rest as bytes; `chunk.crc` seeds and feeds. -/
def Obligations.AssembledCommandsAreLegal : Prop :=
  (∀ (st : Stmt) (ts : List Txn) (off : BitVec 6) (w : Word), (∀ r v, st ≠ .wr r v) → assembleStmt st = some ts →
      .write off w ∈ ts → off &&& 0x3C = 0x00 → ∃ i, decode w = .ok i)
    ∧ (∀ (st : Stmt), assembleStmt st = none ↔
        ∃ n, 0xFFFFFF < n ∧ (st = .command (.typeText n) ∨ ∃ v, st = .withData v (.typeText n)))
    ∧ (∀ (i : Instr) (ts : List Txn), assembleStmt (.command i) = some ts → ∃ w, ts = [.write 0x00 w] ∧ decode w = .ok i)
    ∧ (∀ (v : Word) (i : Instr) (ts : List Txn), assembleStmt (.withData v i) = some ts →
        ∃ w, ts = [.write 0x04 v, .write 0x00 w] ∧ decode w = .ok i)
    ∧ assembleStmt .reset = some [.reset]
    ∧ (∀ (r : Port) (v : Word), ∃ off, portAt off = r ∧ off &&& 0x3C = off ∧ assembleStmt (.wr r v) = some [.write off v]
        ∧ assembleStmt (.rd r) = some [.read off] ∧ assembleStmt (.expect r v) = some [.read off])
    ∧ (∀ (b0 b1 b2 b3 : Byte), assembleStmt (.typeStr [b0, b1, b2, b3])
        = some [.write 0x04 (b0 ++ b1 ++ b2 ++ b3), .write 0x00 0x11000004])
    ∧ (∀ (d : List Byte), d.length ≠ 4 → assembleStmt (.typeStr d)
        = some [.write 0x04 0, .write 0x00 (0x11#8 ++ BitVec.ofNat 24 (min d.length 0xFFFFFF))])
    ∧ (∀ (b0 b1 b2 b3 : Byte) (d : List Byte), ∃ ts us,
        assembleStmt (.crcFeed d) = some ts ∧ assembleStmt (.frameFeed d) = some us
        ∧ assembleStmt (.crcFeed (b0 :: b1 :: b2 :: b3 :: d))
          = some (.write 0x04 (b0 ++ b1 ++ b2 ++ b3) :: .write 0x00 0x03000000 :: ts)
        ∧ assembleStmt (.frameFeed (b0 :: b1 :: b2 :: b3 :: d))
          = some (.write 0x04 (b0 ++ b1 ++ b2 ++ b3) :: .write 0x00 0x32000000 :: us))
    ∧ (∀ (d : List Byte), d.length < 4 →
        assembleStmt (.crcFeed d) = some (d.map fun b => .write 0x00 (0x020000#24 ++ b))
        ∧ assembleStmt (.frameFeed d) = some (d.map fun b => .write 0x00 (0x310000#24 ++ b)))
    ∧ (∀ (t : Word) (d : List Byte), ∃ ts, assembleStmt (.crcFeed d) = some ts
        ∧ assembleStmt (.chunkCrc t d) = some (.write 0x00 0x01000000 :: .write 0x04 t :: .write 0x00 0x03000000 :: ts))

/-! ### Invariants -/

/-- R39: the reset state meets the invariant. -/
def Obligations.ResetMeetsFrameInv : Prop := FrameInv State.reset

/-- R39, R26, R158: every step keeps the invariant: the verdict is legal and stands exactly in ERROR, an active frame has POS
< BUF_LEN and BUF_LEN ≥ 12, PLEN + 12 = BUF_LEN once the length has passed, and POS stands in the field its phase names. -/
def Obligations.EveryStepKeepsFrameInv : Prop :=
  ∀ (s t : State), FrameInv s → step s = .next t → FrameInv t

/-- R39: every state a run from reset ends in meets R39's invariants. -/
def Obligations.ReachableStatesMeetTheInvariants : Prop :=
  ∀ (s : State), Reachable s → VerdictLegal s ∧ FrameBounded s
    ∧ (resultBits s.result).toNat ≤ 7 ∧ (phaseBits s.phase).toNat ≤ 6 ∧ (resultBits s.fresult).toNat ≤ 3

/-- R158: a frame command that reaches DONE leaves POS = BUF_LEN = 12 + PLEN. -/
def Obligations.DoneFrameEndsAtBufLen : Prop :=
  ∀ (s t : State) (i : Instr), FrameInv s → active s.phase = true → exec i s = .next t → t.phase = .done →
    t.pos = t.bufLen ∧ t.bufLen.toNat = 12 + t.plen.toNat ∧ t.bufLen = s.bufLen

/-- R34's sentence that POS ≤ BUF_LEN in every reachable state. It is expected to FAIL: R54, R55 and R39 let the host write
a smaller BUF_LEN once no frame is active (log entry 7). -/
def Obligations.PosNeverExceedsBufLen : Prop :=
  ∀ (s : State), Reachable s → s.pos.toNat ≤ s.bufLen.toNat

/-- R34, R21: what holds of POS ≤ BUF_LEN: every transaction keeps it, from every state that meets the invariant, but exactly a
write of a value below POS to BUF_LEN while no frame is active, which R54 stores. And from a FRAME_START on, whatever the host
does until the next one, POS is at most the BUF_LEN that FRAME_START was issued with (log entry 7). -/
def Obligations.PosStaysWithinBufLenButForASmallerBufLen : Prop :=
  (∀ (t : Txn) (s u : State), FrameInv s → s.pos.toNat ≤ s.bufLen.toNat → transact t s = .next u →
    (u.pos.toNat ≤ u.bufLen.toNat ↔
      ¬ ∃ off v, t = .write off v ∧ off &&& 0x3C = 0x10 ∧ active s.phase = false ∧ v.toNat < s.pos.toNat))
  ∧ ∀ (ts : List Txn) (s t u : State), exec .frameStart s = .next t →
      (∀ off, off &&& 0x3C = 0x00 → .write off 0x30000000 ∉ ts) → runTxns ts t = .next u →
      u.pos.toNat ≤ s.bufLen.toNat

/-! ### The frame engine is `Chunk::parse` -/

/-- R157: FRAME_START with BUF_LEN the buffer's length, and then every byte of the buffer until the frame is no longer active,
end with the verdict of `Chunk::parse` under the policy of CTRL; on success CRC_OUT is the stored checksum (log entry 15). -/
def Obligations.FrameVerdictIsChunkParse : Prop :=
  ∀ (s : State) (buf : List Byte), buf.length ≤ Config.maxBufLen → s.bufLen = BitVec.ofNat 32 buf.length →
    ∃ t u, exec .frameStart s = .next t ∧ feedFrame buf t = .next u
      ∧ verdictOf buf u = some (chunkParse s.lenpol buf)
      ∧ (u.phase = .done → busRead 0x18 u = u.scrc ∧ u.pos = u.bufLen)

/-- R159: the serialization of a chunk, fed in any split into FRAME_WORDs and FRAME_BYTEs under either policy, ends DONE with
the chunk's type, length and checksum, and no command fails (log entry 15). -/
def Obligations.SerializedChunkParsesBack : Prop :=
  ∀ (s : State) (t : Word) (d : List Byte) (pieces : List Piece), d.length ≤ Config.maxPayload →
    s.bufLen = BitVec.ofNat 32 (12 + d.length) → pieces.flatMap Piece.bytes = serialize t d →
    ∃ u, runTxns (commandTxn .frameStart :: pieces.flatMap Piece.frameTxns) s = .next u
      ∧ u.phase = .done ∧ u.chunkType = t ∧ u.len.toNat = d.length ∧ u.plen.toNat = d.length
      ∧ u.scrc = crc32 (streamBytes t ++ d) ∧ busRead 0x18 u = crc32 (streamBytes t ++ d)
      ∧ u.result = .ok ∧ u.err = s.err

/-- R160: a serialized chunk with one bit changed: in the type, payload or stored CRC it fails with verdict 3 under either
policy; in the length field it fails with verdict 2 under STRICT, and under BOUND when the bit raises the declared length,
but ends DONE with LEN ≠ PLEN when the bit lowers it (log entry 15). -/
def Obligations.CorruptedChunkVerdicts : Prop :=
  ∀ (s : State) (t : Word) (d : List Byte) (j k : Nat), d.length ≤ Config.maxPayload →
    s.bufLen = BitVec.ofNat 32 (12 + d.length) → j < 12 + d.length → k < 8 →
    let buf := flipBit (serialize t d) j k
    ∃ v u, exec .frameStart s = .next v ∧ feedFrame buf v = .next u
      ∧ (4 ≤ j → u.phase = .error ∧ u.fresult = .invalidCrc)
      ∧ (j < 4 → s.lenpol = .strict → u.phase = .error ∧ u.fresult = .invalidChunkLength)
      ∧ (j < 4 → s.lenpol = .bound → d.length < (wordAt buf 0).toNat →
          u.phase = .error ∧ u.fresult = .invalidChunkLength)
      ∧ (j < 4 → s.lenpol = .bound → (wordAt buf 0).toNat < d.length → u.phase = .done ∧ u.len ≠ u.plen)
end

