-- ==== Sys2Proof/Laws/Bytes.lean ====
section
/-! SUPPORT. The byte order of words (R60): a word is its 4 stream bytes, and 4 bytes shifted into ACC are their word. -/

namespace Sys2Proof.Machine

@[simp] theorem byte0_be32 (b0 b1 b2 b3 : Byte) : byte0 (be32 b0 b1 b2 b3) = b0 := by
  apply BitVec.eq_of_getLsbD_eq
  intro i hi
  simp only [byte0, be32, BitVec.getLsbD_extractLsb', BitVec.getLsbD_append]
  simp [hi, show ¬ 24 + i < 8 by omega, show ¬ 24 + i - 8 < 8 by omega, show ¬ 24 + i - 8 - 8 < 8 by omega,
    show 24 + i - 8 - 8 - 8 = i by omega]

@[simp] theorem byte1_be32 (b0 b1 b2 b3 : Byte) : byte1 (be32 b0 b1 b2 b3) = b1 := by
  apply BitVec.eq_of_getLsbD_eq
  intro i hi
  simp only [byte1, be32, BitVec.getLsbD_extractLsb', BitVec.getLsbD_append]
  simp [hi, show ¬ 16 + i < 8 by omega, show ¬ 16 + i - 8 < 8 by omega, show 16 + i - 8 - 8 = i by omega]

@[simp] theorem byte2_be32 (b0 b1 b2 b3 : Byte) : byte2 (be32 b0 b1 b2 b3) = b2 := by
  apply BitVec.eq_of_getLsbD_eq
  intro i hi
  simp only [byte2, be32, BitVec.getLsbD_extractLsb', BitVec.getLsbD_append]
  simp [hi]

@[simp] theorem byte3_be32 (b0 b1 b2 b3 : Byte) : byte3 (be32 b0 b1 b2 b3) = b3 := by
  apply BitVec.eq_of_getLsbD_eq
  intro i hi
  simp only [byte3, be32, BitVec.getLsbD_extractLsb', BitVec.getLsbD_append]
  simp [hi]

@[simp] theorem streamBytes_be32 (b0 b1 b2 b3 : Byte) : streamBytes (be32 b0 b1 b2 b3) = [b0, b1, b2, b3] := by
  simp [streamBytes]

@[simp] theorem length_streamBytes (w : Word) : (streamBytes w).length = 4 := rfl

/-- The bits of a byte shifted into a field. -/
theorem getLsbD_shiftIn (acc : Word) (b : Byte) (i : Nat) (hi : i < 32) :
    (shiftIn acc b).getLsbD i = if i < 8 then b.getLsbD i else acc.getLsbD (i - 8) := by
  simp only [shiftIn, zext32, BitVec.getLsbD_or, BitVec.getLsbD_shiftLeft, hi, decide_true, Bool.true_and]
  by_cases h : i < 8
  · simp [h, hi]
  · simp [h, BitVec.getLsbD_of_ge b i (by omega)]

/-- Four bytes shifted into any field leave their word (R35). -/
theorem shiftIn_four (acc : Word) (b0 b1 b2 b3 : Byte) :
    shiftIn (shiftIn (shiftIn (shiftIn acc b0) b1) b2) b3 = be32 b0 b1 b2 b3 := by
  apply BitVec.eq_of_getLsbD_eq
  intro i hi
  simp only [be32, BitVec.getLsbD_append]
  rw [getLsbD_shiftIn _ _ _ hi]
  by_cases h8 : i < 8
  · simp [h8]
  · rw [getLsbD_shiftIn _ _ _ (by omega)]
    by_cases h16 : i < 16
    · simp [h8, show i - 8 < 8 by omega]
    · rw [getLsbD_shiftIn _ _ _ (by omega)]
      by_cases h24 : i < 24
      · simp [h8, show ¬ i - 8 < 8 by omega, show i - 8 - 8 < 8 by omega]
      · rw [getLsbD_shiftIn _ _ _ (by omega)]
        simp [h8, show ¬ i - 8 < 8 by omega, show ¬ i - 8 - 8 < 8 by omega, show i - 8 - 8 - 8 < 8 by omega]

/-- A word is BE32 of its stream bytes (R60). -/
@[simp] theorem be32_streamBytes (w : Word) : be32 (byte0 w) (byte1 w) (byte2 w) (byte3 w) = w := by
  apply BitVec.eq_of_getLsbD_eq
  intro i hi
  simp only [be32, byte0, byte1, byte2, byte3, BitVec.getLsbD_append, BitVec.getLsbD_extractLsb']
  by_cases h8 : i < 8
  · simp [h8]
  · by_cases h16 : i < 16
    · simp [h8, show i - 8 < 8 by omega, show 8 + (i - 8) = i by omega]
    · by_cases h24 : i < 24
      · simp [h8, show ¬ i - 8 < 8 by omega, show i - 8 - 8 < 8 by omega, show 16 + (i - 8 - 8) = i by omega]
      · simp [h8, show ¬ i - 8 < 8 by omega, show ¬ i - 8 - 8 < 8 by omega, show i - 8 - 8 - 8 < 8 by omega,
          show 24 + (i - 8 - 8 - 8) = i by omega]

/-- The stream bytes of a word, shifted into any field, leave the word (R35). -/
theorem shiftIn_streamBytes (acc w : Word) :
    shiftIn (shiftIn (shiftIn (shiftIn acc (byte0 w)) (byte1 w)) (byte2 w)) (byte3 w) = w := by
  rw [shiftIn_four, be32_streamBytes]

@[simp] theorem assemble_four (b0 b1 b2 b3 : Byte) : assemble [b0, b1, b2, b3] = be32 b0 b1 b2 b3 := by
  simp [assemble, shiftIn_four]

@[simp] theorem assemble_streamBytes (w : Word) : assemble (streamBytes w) = w := by
  simp [streamBytes]

@[simp] theorem policyOfWord_eq (v : Word) : policyOfWord v = if v.toNat % 2 = 1 then .bound else .strict := by
  have : v.getLsbD 0 = decide (v.toNat % 2 = 1) := by simp [BitVec.getLsbD, Nat.testBit_zero]
  simp only [policyOfWord, this, decide_eq_true_eq]

end Sys2Proof.Machine
end

