-- ==== Sys2Proof/Laws/Crc.lean ====
section
/-! SUPPORT. Laws of the checksum: sequences (R121), linearity over XOR, and that a step loses nothing of CRC. -/

namespace Sys2Proof.Machine

@[simp] theorem crcSeq_nil (c : Word) : crcSeq c [] = c := rfl

@[simp] theorem crcSeq_cons (c : Word) (b : Byte) (s : List Byte) : crcSeq c (b :: s) = crcSeq (crcByte c b) s := rfl

/-- A message may be fed in any split (R121). -/
theorem crcSeq_append (c : Word) (s t : List Byte) : crcSeq c (s ++ t) = crcSeq (crcSeq c s) t := by
  induction s generalizing c with
  | nil => rfl
  | cons b s ih => exact ih (crcByte c b)

/-- A bit update is linear over XOR. -/
theorem crcBit_xor (c d : Word) : crcBit (c ^^^ d) = crcBit c ^^^ crcBit d := by
  have hs : (c ^^^ d) >>> 1 = c >>> 1 ^^^ d >>> 1 := by ext i hi; simp
  unfold crcBit
  rw [hs, BitVec.getLsbD_xor]
  cases c.getLsbD 0 <;> cases d.getLsbD 0 <;> simp only [Bool.xor_false, Bool.xor_true, Bool.not_true, Bool.not_false,
    if_true, Bool.false_eq_true, if_false] <;> ext i hi <;> simp <;> grind

theorem crcBits_xor (n : Nat) (c d : Word) : crcBits n (c ^^^ d) = crcBits n c ^^^ crcBits n d := by
  induction n generalizing c d with
  | zero => rfl
  | succ n ih => simp only [crcBits, crcBit_xor, ih]

/-- Bit 31 after a bit update is the bit shifted out: the polynomial's bit 31 is 1 and the shift clears it. -/
theorem crcBit_getLsbD_31 (c : Word) : (crcBit c).getLsbD 31 = c.getLsbD 0 := by
  unfold crcBit
  cases h : c.getLsbD 0 <;> simp

/-- A bit update loses nothing. -/
theorem crcBit_injective : Function.Injective crcBit := by
  intro c d h
  have h31 : c.getLsbD 0 = d.getLsbD 0 := by rw [← crcBit_getLsbD_31, ← crcBit_getLsbD_31, h]
  have hsh : c >>> 1 = d >>> 1 := by
    unfold crcBit at h
    rw [h31] at h
    split at h
    · exact (BitVec.xor_left_inj _).mp h
    · exact h
  apply BitVec.eq_of_getLsbD_eq
  intro i hi
  rcases Nat.eq_zero_or_pos i with rfl | hp
  · exact h31
  · have := congrArg (fun w : Word => w.getLsbD (i - 1)) hsh
    simpa [show 1 + (i - 1) = i by omega] using this

theorem crcBits_injective (n : Nat) : Function.Injective (crcBits n) := by
  induction n with
  | zero => exact fun _ _ h => h
  | succ n ih => exact fun _ _ h => crcBit_injective (ih h)

/-- A byte step loses nothing of CRC. -/
theorem crcByte_injective_crc (b : Byte) : Function.Injective (crcByte · b) := by
  intro c d h
  exact (BitVec.xor_left_inj _).mp (crcBits_injective 8 h)

/-- A byte step loses nothing of its byte. -/
theorem crcByte_injective_byte (c : Word) : Function.Injective (crcByte c) := by
  intro a b h
  have hz : zext32 a = zext32 b := (BitVec.xor_right_inj _).mp (crcBits_injective 8 h)
  apply BitVec.eq_of_toNat_eq
  have := congrArg BitVec.toNat hz
  simp only [zext32, BitVec.truncate_eq_setWidth, BitVec.toNat_setWidth] at this
  have ha := a.isLt
  have hb := b.isLt
  omega

/-- A sequence of byte steps loses nothing of CRC. -/
theorem crcSeq_injective_crc (s : List Byte) : Function.Injective (crcSeq · s) := by
  induction s with
  | nil => exact fun _ _ h => h
  | cons b s ih => exact fun c d h => crcByte_injective_crc b (ih h)

end Sys2Proof.Machine
end

