-- ==== Sys2Proof/Laws/Decode.lean ====
section
/-! SUPPORT. The fields of a command word and what each format admits (R70, R72). -/

namespace Sys2Proof

@[simp] theorem opcodeField_append (op : BitVec 8) (imm : BitVec 24) : opcodeField (op ++ imm) = op := by
  apply BitVec.eq_of_getLsbD_eq
  intro i hi
  simp only [opcodeField, BitVec.getLsbD_extractLsb', BitVec.getLsbD_append]
  simp [hi]

@[simp] theorem immField_append (op : BitVec 8) (imm : BitVec 24) : immField (op ++ imm) = imm := by
  apply BitVec.eq_of_getLsbD_eq
  intro i hi
  simp only [immField, BitVec.getLsbD_extractLsb', BitVec.getLsbD_append]
  simp [hi]

theorem fields_append (w : Word) : opcodeField w ++ immField w = w := by
  ext i hi
  simp only [opcodeField, immField, BitVec.getElem_append, BitVec.getElem_extractLsb']
  split <;> simp [BitVec.getLsbD, BitVec.getElem_eq_testBit_toNat]
  congr 1
  omega

@[simp] theorem decode_append (op : BitVec 8) (imm : BitVec 24) : decode (op ++ imm) = decodeFields op imm := by
  simp [decode]

@[simp] theorem immReserved_zeroExtend (b : Byte) : immReserved (b.zeroExtend 24) = 0 := by
  ext i hi
  simp [immReserved]

@[simp] theorem immByte_zeroExtend (b : Byte) : immByte (b.zeroExtend 24) = b := by
  ext i hi
  simp [immByte, hi, show i < 24 by omega]

theorem immReserved_append (r : BitVec 16) (b : Byte) : immReserved (r ++ b) = r := by
  apply BitVec.eq_of_getLsbD_eq
  intro i hi
  simp only [immReserved, BitVec.getLsbD_extractLsb', BitVec.getLsbD_append]
  simp [hi]

/-- An immediate with no reserved bit set is its byte, extended by zeros. -/
theorem zeroExtend_immByte (imm : BitVec 24) (h : immReserved imm = 0) : (immByte imm).zeroExtend 24 = imm := by
  ext i hi
  by_cases h8 : i < 8
  · simp [immByte, h8, hi]
  · have := congrArg (fun r : BitVec 16 => r.getLsbD (i - 8)) h
    simp [immReserved, show i - 8 < 16 by omega, show 8 + (i - 8) = i by omega, hi] at this
    simp [immByte, h8, this]

theorem decodeZ_ok_iff (op : BitVec 8) (imm : BitVec 24) (i j : Instr) :
    decodeZ op imm i = .ok j ↔ imm = 0 ∧ i = j := by
  unfold decodeZ
  split <;> simp_all

theorem decodeB_ok_iff (op : BitVec 8) (imm : BitVec 24) (f : Byte → Instr) (j : Instr) :
    decodeB op imm f = .ok j ↔ immReserved imm = 0 ∧ f (immByte imm) = j := by
  unfold decodeB
  split <;> simp_all

@[simp] theorem decodeZ_zero (op : BitVec 8) (i : Instr) : decodeZ op 0 i = .ok i := rfl

@[simp] theorem decodeB_zeroExtend (op : BitVec 8) (b : Byte) (f : Byte → Instr) :
    decodeB op (b.zeroExtend 24) f = .ok (f b) := by
  simp [decodeB_ok_iff]

/-- Format N admits every count of 24 bits (R72). -/
theorem toNat_ofNat_count (n : Nat) (h : n ≤ Config.textLenMax) : (BitVec.ofNat 24 n).toNat = n := by
  have : Config.textLenMax = 0xFFFFFF := rfl
  simp
  omega

/-! ### The opcode map, row by row (R71) -/

theorem decodeFields_nop (imm : BitVec 24) : decodeFields 0x00#8 imm = decodeZ 0x00#8 imm .nop := rfl
theorem decodeFields_crcInit (imm : BitVec 24) : decodeFields 0x01#8 imm = decodeZ 0x01#8 imm .crcInit := rfl
theorem decodeFields_crcByte (imm : BitVec 24) : decodeFields 0x02#8 imm = decodeB 0x02#8 imm .crcByte := rfl
theorem decodeFields_crcWord (imm : BitVec 24) : decodeFields 0x03#8 imm = decodeZ 0x03#8 imm .crcWord := rfl
theorem decodeFields_crcCheck (imm : BitVec 24) : decodeFields 0x04#8 imm = decodeZ 0x04#8 imm .crcCheck := rfl
theorem decodeFields_typeBytes (imm : BitVec 24) : decodeFields 0x10#8 imm = decodeZ 0x10#8 imm .typeBytes := rfl
theorem decodeFields_typeText (imm : BitVec 24) : decodeFields 0x11#8 imm = .ok (.typeText imm.toNat) := rfl
theorem decodeFields_lenParse (imm : BitVec 24) : decodeFields 0x20#8 imm = decodeZ 0x20#8 imm .lenParse := rfl
theorem decodeFields_frameStart (imm : BitVec 24) : decodeFields 0x30#8 imm = decodeZ 0x30#8 imm .frameStart := rfl
theorem decodeFields_frameByte (imm : BitVec 24) : decodeFields 0x31#8 imm = decodeB 0x31#8 imm .frameByte := rfl
theorem decodeFields_frameWord (imm : BitVec 24) : decodeFields 0x32#8 imm = decodeZ 0x32#8 imm .frameWord := rfl
theorem decodeFields_frameAbort (imm : BitVec 24) : decodeFields 0x33#8 imm = decodeZ 0x33#8 imm .frameAbort := rfl
theorem decodeFields_clrErr (imm : BitVec 24) : decodeFields 0x7F#8 imm = decodeZ 0x7F#8 imm .clrErr := rfl

/-- All the ways a word decodes: the opcode names the command and the immediate meets its format (R71, R72). -/
theorem decodeFields_cases {op : BitVec 8} {imm : BitVec 24} {i : Instr} (h : decodeFields op imm = .ok i) :
    (op = 0x00#8 ∧ imm = 0 ∧ i = .nop)
      ∨ (op = 0x01#8 ∧ imm = 0 ∧ i = .crcInit)
      ∨ (op = 0x02#8 ∧ immReserved imm = 0 ∧ i = .crcByte (immByte imm))
      ∨ (op = 0x03#8 ∧ imm = 0 ∧ i = .crcWord)
      ∨ (op = 0x04#8 ∧ imm = 0 ∧ i = .crcCheck)
      ∨ (op = 0x10#8 ∧ imm = 0 ∧ i = .typeBytes)
      ∨ (op = 0x11#8 ∧ i = .typeText imm.toNat)
      ∨ (op = 0x20#8 ∧ imm = 0 ∧ i = .lenParse)
      ∨ (op = 0x30#8 ∧ imm = 0 ∧ i = .frameStart)
      ∨ (op = 0x31#8 ∧ immReserved imm = 0 ∧ i = .frameByte (immByte imm))
      ∨ (op = 0x32#8 ∧ imm = 0 ∧ i = .frameWord)
      ∨ (op = 0x33#8 ∧ imm = 0 ∧ i = .frameAbort)
      ∨ (op = 0x7F#8 ∧ imm = 0 ∧ i = .clrErr) := by
  unfold decodeFields at h
  split at h
  · obtain ⟨h0, rfl⟩ := (decodeZ_ok_iff _ _ _ _).1 h
    exact .inl ⟨rfl, h0, rfl⟩
  · obtain ⟨h0, rfl⟩ := (decodeZ_ok_iff _ _ _ _).1 h
    exact .inr <| .inl ⟨rfl, h0, rfl⟩
  · obtain ⟨h0, rfl⟩ := (decodeB_ok_iff _ _ _ _).1 h
    exact .inr <| .inr <| .inl ⟨rfl, h0, rfl⟩
  · obtain ⟨h0, rfl⟩ := (decodeZ_ok_iff _ _ _ _).1 h
    exact .inr <| .inr <| .inr <| .inl ⟨rfl, h0, rfl⟩
  · obtain ⟨h0, rfl⟩ := (decodeZ_ok_iff _ _ _ _).1 h
    exact .inr <| .inr <| .inr <| .inr <| .inl ⟨rfl, h0, rfl⟩
  · obtain ⟨h0, rfl⟩ := (decodeZ_ok_iff _ _ _ _).1 h
    exact .inr <| .inr <| .inr <| .inr <| .inr <| .inl ⟨rfl, h0, rfl⟩
  · cases h
    exact .inr <| .inr <| .inr <| .inr <| .inr <| .inr <| .inl ⟨rfl, rfl⟩
  · obtain ⟨h0, rfl⟩ := (decodeZ_ok_iff _ _ _ _).1 h
    exact .inr <| .inr <| .inr <| .inr <| .inr <| .inr <| .inr <| .inl ⟨rfl, h0, rfl⟩
  · obtain ⟨h0, rfl⟩ := (decodeZ_ok_iff _ _ _ _).1 h
    exact .inr <| .inr <| .inr <| .inr <| .inr <| .inr <| .inr <| .inr <| .inl ⟨rfl, h0, rfl⟩
  · obtain ⟨h0, rfl⟩ := (decodeB_ok_iff _ _ _ _).1 h
    exact .inr <| .inr <| .inr <| .inr <| .inr <| .inr <| .inr <| .inr <| .inr <| .inl ⟨rfl, h0, rfl⟩
  · obtain ⟨h0, rfl⟩ := (decodeZ_ok_iff _ _ _ _).1 h
    exact .inr <| .inr <| .inr <| .inr <| .inr <| .inr <| .inr <| .inr <| .inr <| .inr <| .inl ⟨rfl, h0, rfl⟩
  · obtain ⟨h0, rfl⟩ := (decodeZ_ok_iff _ _ _ _).1 h
    exact .inr <| .inr <| .inr <| .inr <| .inr <| .inr <| .inr <| .inr <| .inr <| .inr <| .inr <| .inl ⟨rfl, h0, rfl⟩
  · obtain ⟨h0, rfl⟩ := (decodeZ_ok_iff _ _ _ _).1 h
    exact .inr <| .inr <| .inr <| .inr <| .inr <| .inr <| .inr <| .inr <| .inr <| .inr <| .inr <| .inr <| ⟨rfl, h0, rfl⟩
  · cases h

end Sys2Proof
end

