-- ==== Sys2Proof/Laws/Length.lean ====
section
/-! SUPPORT. What the length check answers (R140, R141): Fail exactly when the declared length is inconsistent with the
buffer, and a Pass always gives the buffer's length less 12. -/

namespace Sys2Proof.Machine

/-- The two ways to fail (R140). -/
theorem lengthCheck_eq_none_iff (L D : Nat) (pol : Policy) :
    lengthCheck L D pol = none ↔ D + 12 > L ∨ (pol = .strict ∧ D + 12 ≠ L) := by
  unfold lengthCheck
  by_cases h1 : D + 12 > L
  · simp [h1]
  · by_cases h2 : pol = .strict ∧ D + 12 ≠ L <;> simp [h1, h2]

/-- Every pass gives L − 12, under either policy (R141). -/
theorem lengthCheck_eq_some (L D : Nat) (pol : Policy) (h : ¬ (D + 12 > L ∨ (pol = .strict ∧ D + 12 ≠ L))) :
    lengthCheck L D pol = some (L - 12) := by
  unfold lengthCheck payloadLen
  cases pol <;> simp_all
  omega

/-- Both answers at once. -/
theorem lengthCheck_cases (L D : Nat) (pol : Policy) :
    (lengthCheck L D pol = none ∧ (D + 12 > L ∨ (pol = .strict ∧ D + 12 ≠ L)))
      ∨ (lengthCheck L D pol = some (L - 12) ∧ D + 12 ≤ L ∧ (pol = .strict → D + 12 = L)) := by
  by_cases h : D + 12 > L ∨ (pol = .strict ∧ D + 12 ≠ L)
  · exact .inl ⟨(lengthCheck_eq_none_iff L D pol).2 h, h⟩
  · refine .inr ⟨lengthCheck_eq_some L D pol h, by omega, fun hp => ?_⟩
    by_contra hne
    exact h (.inr ⟨hp, hne⟩)

/-- BUF_LEN − 12 as a register value: no wrap once BUF_LEN ≥ 12. -/
theorem ofNat_bufLen_sub (L : Word) (h : 12 ≤ L.toNat) : BitVec.ofNat 32 (L.toNat - 12) = L - 12 := by
  apply BitVec.eq_of_toNat_eq
  have := L.isLt
  simp [BitVec.toNat_sub]
  omega

end Sys2Proof.Machine
end

