-- ==== Sys2Proof/Laws/Ops.lean ====
section
/-! SUPPORT. What the shared operations answer: the phase check (R75), the end of a command (R9), the slots of the window
(R52), issuing a command (R75) and one transaction (R56). -/

namespace Sys2Proof.Machine

/-! ### The phase check and the end of a command -/

theorem standalone_of_inactive {body : State → Host.Outcome State Fault Refusal} {s : State}
    (h : active s.phase = false) : standalone body s = body s := by
  simp [standalone, h]

theorem standalone_of_active {body : State → Host.Outcome State Fault Refusal} {s : State}
    (h : active s.phase = true) : standalone body s = .next (raiseCode .sequenceError s) := by
  simp [standalone, h]

/-- Everything a standalone command can do: it is refused with 7 during a frame, or its body runs. -/
theorem standalone_cases {body : State → Host.Outcome State Fault Refusal} {s t : State}
    (h : standalone body s = .next t) :
    (active s.phase = true ∧ t = raiseCode .sequenceError s) ∨ (active s.phase = false ∧ body s = .next t) := by
  cases ha : active s.phase with
  | true =>
    rw [standalone_of_active ha] at h
    cases h
    exact .inl ⟨rfl, rfl⟩
  | false =>
    rw [standalone_of_inactive ha] at h
    exact .inr ⟨rfl, h⟩

@[simp] theorem finishWith_none (s : State) : finishWith (s, none) = .next (finishOk s) := rfl

@[simp] theorem finishWith_some (s : State) (c : ResultCode) : finishWith (s, some c) = .next (raiseCode c s) := rfl

/-- Everything the end of a command can do. -/
theorem finishWith_cases {r : State × Option ResultCode} {t : State} (h : finishWith r = .next t) :
    (r.2 = none ∧ t = finishOk r.1) ∨ (∃ c, r.2 = some c ∧ t = raiseCode c r.1) := by
  obtain ⟨s, _ | c⟩ := r <;> cases h
  · exact .inl ⟨rfl, rfl⟩
  · exact .inr ⟨c, rfl, rfl⟩

theorem active_iff (p : Phase) : active p = true ↔ p = .len ∨ p = .type ∨ p = .payload ∨ p = .crcf := by
  cases p <;> decide

theorem inactive_iff (p : Phase) : active p = false ↔ p = .idle ∨ p = .done ∨ p = .error := by
  cases p <;> decide

/-! ### The window -/

/-- Offset bits [1:0] are ignored (R52). -/
@[simp] theorem portAt_and (off : BitVec 6) : portAt (off &&& 0x3C) = portAt off := by
  revert off
  decide

/-- The slot of an offset, from the word it is aligned to (R51). -/
theorem portAt_eq {off word : BitVec 6} (h : off &&& 0x3C = word) : portAt off = portAt word := by
  rw [← h, portAt_and]

/-- The slots a write does something to (R54). -/
theorem portAt_cases (off : BitVec 6) :
    (portAt off = .cmd ∧ off &&& 0x3C = 0x00) ∨ (portAt off = .data ∧ off &&& 0x3C = 0x04)
      ∨ (portAt off = .ctrl ∧ off &&& 0x3C = 0x0C) ∨ (portAt off = .bufLen ∧ off &&& 0x3C = 0x10)
      ∨ (portAt off ∉ [.cmd, .data, .ctrl, .bufLen] ∧ off &&& 0x3C ∉ [0x00#6, 0x04, 0x0C, 0x10]) := by
  revert off
  decide

/-! ### Issuing a command, and one transaction -/

theorem issueCommand_of_ok {w : Word} {i : Instr} (s : State) (h : decode w = .ok i) : issueCommand w s = exec i s := by
  simp [issueCommand, h]

theorem issueCommand_of_error {w : Word} {e : DecodeError} (s : State) (h : decode w = .error e) :
    issueCommand w s = .next (raiseCode .illegalCommand s) := by
  simp [issueCommand, h]

/-- Everything issuing a command can do: an illegal word raises 6, a legal one is executed (R75). -/
theorem issueCommand_cases {w : Word} {s t : State} (h : issueCommand w s = .next t) :
    ((∃ e, decode w = .error e) ∧ t = raiseCode .illegalCommand s) ∨ (∃ i, decode w = .ok i ∧ exec i s = .next t) := by
  cases hd : decode w with
  | error e =>
    rw [issueCommand_of_error s hd] at h
    cases h
    exact .inl ⟨⟨e, rfl⟩, rfl⟩
  | ok i => exact .inr ⟨i, rfl, by rwa [issueCommand_of_ok s hd] at h⟩

theorem transact_write (off : BitVec 6) (v : Word) (s : State) :
    transact (.write off v) s = writePort v s (portAt off) := rfl

/-- Everything a bus write can do (R54). -/
theorem write_cases {off : BitVec 6} {v : Word} {s t : State} (h : transact (.write off v) s = .next t) :
    (off &&& 0x3C = 0x00 ∧ issueCommand v s = .next t) ∨ (off &&& 0x3C = 0x04 ∧ t = writeData v s)
      ∨ (off &&& 0x3C = 0x0C ∧ t = writeCtrl v s) ∨ (off &&& 0x3C = 0x10 ∧ t = writeBufLen v s)
      ∨ (off &&& 0x3C ∉ [0x00#6, 0x04, 0x0C, 0x10] ∧ t = s) := by
  rw [transact_write] at h
  obtain ⟨hp, ho⟩ | ⟨hp, ho⟩ | ⟨hp, ho⟩ | ⟨hp, ho⟩ | ⟨hp, ho⟩ := portAt_cases off
  · rw [hp] at h
    exact .inl ⟨ho, h⟩
  · rw [hp] at h
    cases h
    exact .inr <| .inl ⟨ho, rfl⟩
  · rw [hp] at h
    cases h
    exact .inr <| .inr <| .inl ⟨ho, rfl⟩
  · rw [hp] at h
    cases h
    exact .inr <| .inr <| .inr <| .inl ⟨ho, rfl⟩
  · refine .inr <| .inr <| .inr <| .inr ⟨ho, ?_⟩
    cases hq : portAt off <;> rw [hq] at h hp <;> first | (cases h; rfl) | simp at hp

/-- Everything a step can do: nothing when no transaction is pending, else the oldest one (R56). -/
theorem step_cases {s t : State} (h : step s = .next t) :
    (s.pending = [] ∧ t = s) ∨ (∃ x rest, s.pending = x :: rest ∧ transact x { s with pending := rest } = .next t) := by
  unfold step takeTransaction at h
  split at h
  · next hp =>
    cases h
    exact .inl ⟨hp, rfl⟩
  · next x rest hp => exact .inr ⟨x, rest, hp, h⟩

end Sys2Proof.Machine
end

