-- ==== Sys2Proof/Laws/Exec.lean ====
section
/-! SUPPORT. Each command's meaning as the shared operation it goes through, so that a proof rewrites with the phase check
and the length check and unfolds no meaning. -/

namespace Sys2Proof.Machine

theorem exec_nop (s : State) : exec .nop s = .next (finishOk s) := rfl

theorem exec_crcInit (s : State) :
    exec .crcInit s = standalone (fun s => .next (finishOk { s with crc := 0xFFFFFFFF })) s := rfl

theorem exec_crcByte (b : Byte) (s : State) :
    exec (.crcByte b) s = standalone (fun s => .next (finishOk { s with crc := crcByte s.crc b })) s := rfl

theorem exec_crcWord (s : State) :
    exec .crcWord s = standalone (fun s => .next (finishOk { s with crc := crcSeq s.crc (streamBytes s.data) })) s := rfl

theorem exec_crcCheck (s : State) :
    exec .crcCheck s
      = standalone (fun s => if s.crc ^^^ 0xFFFFFFFF = s.data then .next (finishOk { s with scrc := s.data })
          else .next (raiseCode .invalidCrc { s with scrc := s.data })) s := rfl

theorem exec_typeBytes (s : State) :
    exec .typeBytes s = standalone (fun s => .next (finishOk { s with chunkType := s.data })) s := rfl

theorem exec_typeText (n : Nat) (s : State) :
    exec (.typeText n) s
      = standalone (fun s => if n ≠ 4 then .next (raiseCode .invalidChunkTypeLength s)
          else if allLetters s.data then .next (finishOk { s with chunkType := s.data })
          else .next (raiseCode .invalidChunkTypeCharacter s)) s := rfl

/-- LEN_PARSE with the length check's three outcomes spelled out. -/
theorem exec_lenParse (s : State) :
    exec .lenParse s
      = standalone (fun s => if s.bufLen.toNat < 12 then .next (raiseCode .invalidInput s)
          else if s.data.toNat + 12 > s.bufLen.toNat ∨ (s.lenpol = .strict ∧ s.data.toNat + 12 ≠ s.bufLen.toNat) then
            .next (raiseCode .invalidChunkLength { s with len := s.data })
          else .next (finishOk { s with len := s.data, plen := s.bufLen - 12 })) s := by
  show execLenParse s = _
  unfold execLenParse
  congr 1
  funext s
  by_cases h12 : s.bufLen.toNat < 12
  · simp only [h12, if_true]
  · simp only [h12, if_false]
    by_cases h : s.data.toNat + 12 > s.bufLen.toNat ∨ (s.lenpol = .strict ∧ s.data.toNat + 12 ≠ s.bufLen.toNat)
    · rw [if_pos h]
      simp only [(lengthCheck_eq_none_iff s.bufLen.toNat s.data.toNat s.lenpol).2 h]
    · rw [if_neg h]
      simp only [lengthCheck_eq_some s.bufLen.toNat s.data.toNat s.lenpol h, ofNat_bufLen_sub s.bufLen (by omega)]

theorem exec_frameStart (s : State) :
    exec .frameStart s
      = if s.bufLen.toNat < 12 then
          .next (raiseCode .invalidInput { s with pos := 0, acc := 0, len := 0, plen := 0, scrc := 0, crc := 0xFFFFFFFF,
                                                  phase := .error, fresult := .invalidInput })
        else
          .next (finishOk { s with pos := 0, acc := 0, len := 0, plen := 0, scrc := 0, crc := 0xFFFFFFFF,
                                   fresult := .ok, phase := .len }) := rfl

theorem exec_frameByte (b : Byte) (s : State) :
    exec (.frameByte b) s
      = if active s.phase then finishWith (frameStep b s) else .next (raiseCode .sequenceError s) := rfl

theorem exec_frameWord (s : State) :
    exec .frameWord s
      = if active s.phase = false ∨ s.bufLen.toNat - s.pos.toNat < 4 then .next (raiseCode .sequenceError s)
        else finishWith (frameSteps (streamBytes s.data) s) := rfl

theorem exec_frameAbort (s : State) :
    exec .frameAbort s = .next (finishOk { s with phase := .idle, fresult := .ok }) := rfl

theorem exec_clrErr (s : State) : exec .clrErr s = .next (finishOk { s with err := false }) := rfl

end Sys2Proof.Machine
end

