-- ==== Sys2Proof/Laws/Frame.lean ====
section
/-! SUPPORT. Everything one frame byte can do (R152), and what it leaves alone. -/

namespace Sys2Proof.Machine

/-- The declared length is inconsistent with the buffer under the state's policy (R140). -/
abbrev LengthInconsistent (s : State) (D : Word) : Prop :=
  D.toNat + 12 > s.bufLen.toNat ∨ (s.lenpol = .strict ∧ D.toNat + 12 ≠ s.bufLen.toNat)

/-- Both ends of the length field. -/
theorem frameLength_cases (s : State) :
    (LengthInconsistent s s.acc ∧ frameLength s
      = ({ s with len := s.acc, phase := .error, fresult := .invalidChunkLength }, some .invalidChunkLength))
    ∨ (¬ LengthInconsistent s s.acc ∧ 12 ≤ s.bufLen.toNat ∧ frameLength s
      = ({ s with len := s.acc, plen := s.bufLen - 12, phase := .type }, none)) := by
  unfold frameLength frameFail
  obtain ⟨h, hi⟩ | ⟨h, hle, hs⟩ := lengthCheck_cases s.bufLen.toNat s.acc.toNat s.lenpol
  · exact .inl ⟨hi, by simp [h]⟩
  · have hL : 12 ≤ s.bufLen.toNat := by omega
    refine .inr ⟨?_, hL, by simp only [h, ofNat_bufLen_sub s.bufLen hL]⟩
    rintro (hgt | ⟨hp, hne⟩)
    · omega
    · exact hne (hs hp)

/-- Both ends of the frame. -/
theorem frameVerdict_cases (s : State) :
    (s.crc ^^^ 0xFFFFFFFF = s.acc ∧ frameVerdict s = ({ s with scrc := s.acc, phase := .done }, none))
    ∨ (s.crc ^^^ 0xFFFFFFFF ≠ s.acc ∧ frameVerdict s
      = ({ s with scrc := s.acc, phase := .error, fresult := .invalidCrc }, some .invalidCrc)) := by
  unfold frameVerdict frameFail crcOut
  by_cases h : s.crc ^^^ 0xFFFFFFFF = s.acc
  · exact .inl ⟨h, if_pos h⟩
  · exact .inr ⟨h, if_neg h⟩

/-- A byte inside the length field. -/
theorem frameStep_len (b : Byte) (s : State) (hp : s.phase = .len) (h : s.pos.toNat ≠ 3) :
    frameStep b s = ({ s with pos := s.pos + 1, acc := shiftIn s.acc b }, none) := by
  simp [frameStep, hp, frameLenByte, h, shiftAcc]

/-- The last byte of the length field. -/
theorem frameStep_len_last (b : Byte) (s : State) (hp : s.phase = .len) (h : s.pos.toNat = 3) :
    frameStep b s = frameLength { s with pos := s.pos + 1, acc := shiftIn s.acc b } := by
  simp [frameStep, hp, frameLenByte, h, shiftAcc]

/-- A byte inside the type field. -/
theorem frameStep_type (b : Byte) (s : State) (hp : s.phase = .type) (h : s.pos.toNat ≠ 7) :
    frameStep b s
      = ({ s with pos := s.pos + 1, crc := crcByte s.crc b, acc := shiftIn s.acc b }, none) := by
  simp [frameStep, hp, frameTypeByte, h, shiftAcc]

/-- The last byte of the type field. -/
theorem frameStep_type_last (b : Byte) (s : State) (hp : s.phase = .type) (h : s.pos.toNat = 7) :
    frameStep b s
      = ({ s with pos := s.pos + 1, crc := crcByte s.crc b, acc := shiftIn s.acc b, chunkType := shiftIn s.acc b,
                  phase := if s.plen = 0 then .crcf else .payload }, none) := by
  simp [frameStep, hp, frameTypeByte, h, shiftAcc, frameType]

/-- A payload byte. -/
theorem frameStep_payload (b : Byte) (s : State) (hp : s.phase = .payload) :
    frameStep b s
      = ({ s with pos := s.pos + 1, crc := crcByte s.crc b,
                  phase := if s.pos.toNat + 1 = 8 + s.plen.toNat then .crcf else .payload }, none) := by
  simp only [frameStep, hp, framePayloadByte]
  split <;> rfl

/-- A byte inside the stored CRC. -/
theorem frameStep_crcf (b : Byte) (s : State) (hp : s.phase = .crcf) (h : s.pos.toNat + 1 ≠ 12 + s.plen.toNat) :
    frameStep b s = ({ s with pos := s.pos + 1, acc := shiftIn s.acc b }, none) := by
  simp [frameStep, hp, frameCrcByte, h, shiftAcc]

/-- The last byte of the stored CRC. -/
theorem frameStep_crcf_last (b : Byte) (s : State) (hp : s.phase = .crcf) (h : s.pos.toNat + 1 = 12 + s.plen.toNat) :
    frameStep b s = frameVerdict { s with pos := s.pos + 1, acc := shiftIn s.acc b } := by
  simp [frameStep, hp, frameCrcByte, h, shiftAcc]

/-- Everything a frame byte can do while a frame is active (R152). -/
theorem frameStep_cases (b : Byte) (s : State) (ha : active s.phase = true) :
    (s.phase = .len ∧ s.pos.toNat ≠ 3 ∧ frameStep b s = ({ s with pos := s.pos + 1, acc := shiftIn s.acc b }, none))
    ∨ (s.phase = .len ∧ s.pos.toNat = 3 ∧ LengthInconsistent s (shiftIn s.acc b) ∧ frameStep b s
      = ({ s with pos := s.pos + 1, acc := shiftIn s.acc b, len := shiftIn s.acc b, phase := .error,
                  fresult := .invalidChunkLength }, some .invalidChunkLength))
    ∨ (s.phase = .len ∧ s.pos.toNat = 3 ∧ ¬ LengthInconsistent s (shiftIn s.acc b) ∧ 12 ≤ s.bufLen.toNat
      ∧ frameStep b s
      = ({ s with pos := s.pos + 1, acc := shiftIn s.acc b, len := shiftIn s.acc b, plen := s.bufLen - 12,
                  phase := .type }, none))
    ∨ (s.phase = .type ∧ s.pos.toNat ≠ 7 ∧ frameStep b s
      = ({ s with pos := s.pos + 1, crc := crcByte s.crc b, acc := shiftIn s.acc b }, none))
    ∨ (s.phase = .type ∧ s.pos.toNat = 7 ∧ frameStep b s
      = ({ s with pos := s.pos + 1, crc := crcByte s.crc b, acc := shiftIn s.acc b, chunkType := shiftIn s.acc b,
                  phase := if s.plen = 0 then .crcf else .payload }, none))
    ∨ (s.phase = .payload ∧ frameStep b s
      = ({ s with pos := s.pos + 1, crc := crcByte s.crc b,
                  phase := if s.pos.toNat + 1 = 8 + s.plen.toNat then .crcf else .payload }, none))
    ∨ (s.phase = .crcf ∧ s.pos.toNat + 1 ≠ 12 + s.plen.toNat ∧ frameStep b s
      = ({ s with pos := s.pos + 1, acc := shiftIn s.acc b }, none))
    ∨ (s.phase = .crcf ∧ s.pos.toNat + 1 = 12 + s.plen.toNat ∧ s.crc ^^^ 0xFFFFFFFF = shiftIn s.acc b ∧ frameStep b s
      = ({ s with pos := s.pos + 1, acc := shiftIn s.acc b, scrc := shiftIn s.acc b, phase := .done }, none))
    ∨ (s.phase = .crcf ∧ s.pos.toNat + 1 = 12 + s.plen.toNat ∧ s.crc ^^^ 0xFFFFFFFF ≠ shiftIn s.acc b ∧ frameStep b s
      = ({ s with pos := s.pos + 1, acc := shiftIn s.acc b, scrc := shiftIn s.acc b, phase := .error,
                  fresult := .invalidCrc }, some .invalidCrc)) := by
  cases hp : s.phase with
  | idle | done | error => simp [hp, active] at ha
  | len =>
    by_cases h : s.pos.toNat = 3
    · rw [frameStep_len_last b s hp h]
      obtain ⟨hi, he⟩ | ⟨hi, hL, he⟩ := frameLength_cases { s with pos := s.pos + 1, acc := shiftIn s.acc b }
      · exact .inr <| .inl ⟨rfl, h, hi, he⟩
      · exact .inr <| .inr <| .inl ⟨rfl, h, hi, hL, he⟩
    · exact .inl ⟨rfl, h, (frameStep_len b s hp h).trans (by rw [hp])⟩
  | type =>
    by_cases h : s.pos.toNat = 7
    · exact .inr <| .inr <| .inr <| .inr <| .inl ⟨rfl, h, frameStep_type_last b s hp h⟩
    · exact .inr <| .inr <| .inr <| .inl ⟨rfl, h, (frameStep_type b s hp h).trans (by rw [hp])⟩
  | payload =>
    exact .inr <| .inr <| .inr <| .inr <| .inr <| .inl ⟨rfl, frameStep_payload b s hp⟩
  | crcf =>
    by_cases h : s.pos.toNat + 1 = 12 + s.plen.toNat
    · rw [frameStep_crcf_last b s hp h]
      obtain ⟨hc, he⟩ | ⟨hc, he⟩ := frameVerdict_cases { s with pos := s.pos + 1, acc := shiftIn s.acc b }
      · exact .inr <| .inr <| .inr <| .inr <| .inr <| .inr <| .inr <| .inl ⟨rfl, h, hc, he⟩
      · exact .inr <| .inr <| .inr <| .inr <| .inr <| .inr <| .inr <| .inr ⟨rfl, h, hc, he⟩
    · exact .inr <| .inr <| .inr <| .inr <| .inr <| .inr <| .inl
        ⟨rfl, h, (frameStep_crcf b s hp h).trans (by rw [hp])⟩

/-- A frame byte leaves the operands, the configuration, RESULT, ERR and the host's side alone (R152). -/
theorem frameStep_frame (b : Byte) (s : State) :
    (frameStep b s).1.data = s.data ∧ (frameStep b s).1.lenpol = s.lenpol ∧ (frameStep b s).1.bufLen = s.bufLen
      ∧ (frameStep b s).1.result = s.result ∧ (frameStep b s).1.err = s.err
      ∧ (frameStep b s).1.pending = s.pending ∧ (frameStep b s).1.observed = s.observed := by
  cases ha : active s.phase with
  | true =>
    obtain ⟨_, _, h⟩ | ⟨_, _, _, h⟩ | ⟨_, _, _, _, h⟩ | ⟨_, _, h⟩ | ⟨_, _, h⟩ | ⟨_, h⟩ | ⟨_, _, h⟩ | ⟨_, _, _, h⟩
      | ⟨_, _, _, h⟩ := frameStep_cases b s ha <;> simp [h]
  | false =>
    unfold frameStep
    cases hp : s.phase <;> simp_all [active]

theorem frameSteps_cons_none {b : Byte} {bs : List Byte} {s t : State} (h : frameStep b s = (t, none)) :
    frameSteps (b :: bs) s = frameSteps bs t := by
  simp [frameSteps, h]

theorem frameSteps_cons_some {b : Byte} {bs : List Byte} {s t : State} {c : ResultCode}
    (h : frameStep b s = (t, some c)) : frameSteps (b :: bs) s = (t, some c) := by
  simp [frameSteps, h]

/-- Frame bytes leave the operands, the configuration, RESULT, ERR and the host's side alone (R155). -/
theorem frameSteps_frame (bs : List Byte) (s : State) :
    (frameSteps bs s).1.data = s.data ∧ (frameSteps bs s).1.lenpol = s.lenpol ∧ (frameSteps bs s).1.bufLen = s.bufLen
      ∧ (frameSteps bs s).1.result = s.result ∧ (frameSteps bs s).1.err = s.err
      ∧ (frameSteps bs s).1.pending = s.pending ∧ (frameSteps bs s).1.observed = s.observed := by
  induction bs generalizing s with
  | nil => simp [frameSteps]
  | cons b bs ih =>
    have hb := frameStep_frame b s
    rcases hr : frameStep b s with ⟨t, _ | c⟩
    · rw [frameSteps_cons_none hr]
      rw [hr] at hb
      have := ih t
      simp_all
    · rw [frameSteps_cons_some hr]
      rw [hr] at hb
      exact hb

/-! ### What a frame byte does not read -/

/-- The same state with another DATA, RESULT, ERR and host's side: what no frame byte reads or writes (R152, R155). -/
abbrev withSide (d : Word) (r : ResultCode) (e : Bool) (p : List Txn) (o : List Word) (s : State) : State :=
  { s with data := d, result := r, err := e, pending := p, observed := o }

/-- The end of the frame reads nothing of DATA, RESULT, ERR and the host's side. -/
theorem frameVerdict_withSide (d : Word) (r : ResultCode) (e : Bool) (p : List Txn) (o : List Word) (s : State) :
    frameVerdict (withSide d r e p o s) = (withSide d r e p o (frameVerdict s).1, (frameVerdict s).2) := by
  obtain ⟨h, he⟩ | ⟨h, he⟩ := frameVerdict_cases s <;>
    obtain ⟨h', he'⟩ | ⟨h', he'⟩ := frameVerdict_cases (withSide d r e p o s) <;> rw [he, he']
  · exact absurd h h'
  · exact absurd h' h

/-- A frame byte reads nothing of DATA, RESULT, ERR and the host's side. -/
theorem frameStep_withSide (b : Byte) (d : Word) (r : ResultCode) (e : Bool) (p : List Txn) (o : List Word) (s : State) :
    frameStep b (withSide d r e p o s) = (withSide d r e p o (frameStep b s).1, (frameStep b s).2) := by
  cases hp : s.phase with
  | idle | done | error => simp only [frameStep, hp]
  | len =>
    simp only [frameStep, hp, frameLenByte]
    by_cases h : s.pos.toNat = 3
    · simp only [h, if_true, frameLength, shiftAcc, frameFail]
      cases lengthCheck s.bufLen.toNat (shiftIn s.acc b).toNat s.lenpol <;> rfl
    · simp only [h, if_false, shiftAcc]
  | type =>
    simp only [frameStep, hp, frameTypeByte]
    by_cases h : s.pos.toNat = 7
    · simp only [h, if_true, frameType, shiftAcc]
      rfl
    · simp only [h, if_false, shiftAcc]
  | payload =>
    simp only [frameStep, hp, framePayloadByte]
    split <;> rfl
  | crcf =>
    simp only [frameStep, hp, frameCrcByte]
    by_cases h : s.pos.toNat + 1 = 12 + s.plen.toNat
    · simp only [h, shiftAcc, if_true]
      exact frameVerdict_withSide d r e p o { s with pos := s.pos + 1, acc := shiftIn s.acc b, phase := .crcf }
    · simp only [h, shiftAcc, if_false]

/-- Frame bytes read nothing of DATA, RESULT, ERR and the host's side. -/
theorem frameSteps_withSide (bs : List Byte) (d : Word) (r : ResultCode) (e : Bool) (p : List Txn) (o : List Word)
    (s : State) :
    frameSteps bs (withSide d r e p o s) = (withSide d r e p o (frameSteps bs s).1, (frameSteps bs s).2) := by
  induction bs generalizing s with
  | nil => rfl
  | cons b bs ih =>
    have hw := frameStep_withSide b d r e p o s
    rcases hr : frameStep b s with ⟨t, _ | c⟩ <;> rw [hr] at hw
    · rw [frameSteps_cons_none hr, frameSteps_cons_none hw]
      exact ih t
    · rw [frameSteps_cons_some hr, frameSteps_cons_some hw]

/-! ### Bytes in two parts -/

theorem frameSteps_append_none {xs ys : List Byte} {s t : State} (h : frameSteps xs s = (t, none)) :
    frameSteps (xs ++ ys) s = frameSteps ys t := by
  induction xs generalizing s with
  | nil =>
    cases h
    rfl
  | cons x xs ih =>
    rcases hr : frameStep x s with ⟨u, _ | c⟩
    · rw [frameSteps_cons_none hr] at h
      rw [List.cons_append, frameSteps_cons_none hr]
      exact ih h
    · rw [frameSteps_cons_some hr] at h
      cases h

theorem frameSteps_append_some {xs ys : List Byte} {s t : State} {c : ResultCode} (h : frameSteps xs s = (t, some c)) :
    frameSteps (xs ++ ys) s = (t, some c) := by
  induction xs generalizing s with
  | nil => cases h
  | cons x xs ih =>
    rcases hr : frameStep x s with ⟨u, _ | c'⟩
    · rw [frameSteps_cons_none hr] at h
      rw [List.cons_append, frameSteps_cons_none hr]
      exact ih h
    · rw [frameSteps_cons_some hr] at h
      rw [List.cons_append, frameSteps_cons_some hr]
      exact h

end Sys2Proof.Machine
end

