-- ==== Sys2Proof/Laws/FrameFields.lean ====
section
/-! SUPPORT. What the bytes of one whole field do to the frame engine (R150, R152): the 4 length bytes, the 4 type bytes,
the payload, the 4 stored-CRC bytes. -/

namespace Sys2Proof.Machine

/-- The 4 length bytes at the frame's start. -/
theorem frameSteps_length (s : State) (b0 b1 b2 b3 : Byte) (hp : s.phase = .len) (h0 : s.pos = 0) :
    frameSteps [b0, b1, b2, b3] s = frameLength { s with pos := 4, acc := be32 b0 b1 b2 b3 } := by
  have e0 := frameStep_len b0 s hp (by simp [h0])
  have e1 := frameStep_len b1 { s with pos := s.pos + 1, acc := shiftIn s.acc b0 } hp (by simp [h0])
  have e2 := frameStep_len b2 { s with pos := s.pos + 1 + 1, acc := shiftIn (shiftIn s.acc b0) b1 } hp (by simp [h0])
  have e3 := frameStep_len_last b3
    { s with pos := s.pos + 1 + 1 + 1, acc := shiftIn (shiftIn (shiftIn s.acc b0) b1) b2 } hp (by simp [h0])
  have hpos : s.pos + 1 + 1 + 1 + 1 = 4 := by rw [h0]; rfl
  simp only [shiftIn_four, hpos] at e3
  simp only [frameSteps_cons_none e0, frameSteps_cons_none e1, frameSteps_cons_none e2]
  rcases hr : frameLength { s with pos := 4, acc := be32 b0 b1 b2 b3 } with ⟨t, _ | c⟩ <;> rw [hr] at e3
  · rw [frameSteps_cons_none e3]
    rfl
  · rw [frameSteps_cons_some e3]

/-- The 4 type bytes. -/
theorem frameSteps_type (s : State) (b0 b1 b2 b3 : Byte) (hp : s.phase = .type) (h0 : s.pos = 4) :
    frameSteps [b0, b1, b2, b3] s
      = ({ s with pos := 8, acc := be32 b0 b1 b2 b3, chunkType := be32 b0 b1 b2 b3,
                  crc := crcSeq s.crc [b0, b1, b2, b3],
                  phase := if s.plen = 0 then .crcf else .payload }, none) := by
  have e0 := frameStep_type b0 s hp (by simp [h0])
  have e1 := frameStep_type b1 { s with pos := s.pos + 1, crc := crcByte s.crc b0, acc := shiftIn s.acc b0 } hp
    (by simp [h0])
  have e2 := frameStep_type b2
    { s with pos := s.pos + 1 + 1, crc := crcByte (crcByte s.crc b0) b1, acc := shiftIn (shiftIn s.acc b0) b1 } hp
    (by simp [h0])
  have e3 := frameStep_type_last b3
    { s with pos := s.pos + 1 + 1 + 1, crc := crcByte (crcByte (crcByte s.crc b0) b1) b2,
             acc := shiftIn (shiftIn (shiftIn s.acc b0) b1) b2 } hp (by simp [h0])
  have hpos : s.pos + 1 + 1 + 1 + 1 = 8 := by rw [h0]; rfl
  simp only [frameSteps_cons_none e0, frameSteps_cons_none e1, frameSteps_cons_none e2, frameSteps_cons_none e3]
  simp only [hpos, shiftIn_four, frameSteps, crcSeq]

/-- The rest of the payload, in any phase position inside it. -/
theorem frameSteps_payload (d : List Byte) (s : State) (hp : s.phase = .payload) (hd : d ≠ [])
    (h : s.pos.toNat + d.length = 8 + s.plen.toNat) (hlt : 8 + s.plen.toNat < 2 ^ 32) :
    frameSteps d s
      = ({ s with pos := BitVec.ofNat 32 (8 + s.plen.toNat), crc := crcSeq s.crc d, phase := .crcf }, none) := by
  induction d generalizing s with
  | nil => exact absurd rfl hd
  | cons b d ih =>
    have e0 := frameStep_payload b s hp
    have hp1 : (s.pos + 1).toNat = s.pos.toNat + 1 := by simp at h ⊢; omega
    by_cases hd : d = []
    · subst hd
      rw [if_pos (by simpa using h)] at e0
      rw [frameSteps_cons_none e0]
      rw [show s.pos + 1 = BitVec.ofNat 32 (8 + s.plen.toNat) from
        BitVec.eq_of_toNat_eq (by rw [hp1]; simp at h ⊢; omega)]
      rfl
    · have : 0 < d.length := List.length_pos_iff.2 hd
      simp only [List.length_cons] at h
      rw [if_neg (by omega)] at e0
      rw [frameSteps_cons_none e0]
      exact ih { s with pos := s.pos + 1, crc := crcByte s.crc b, phase := .payload } rfl hd
        (by simp only [hp1]; omega) hlt

/-- The 4 stored-CRC bytes. -/
theorem frameSteps_crcf (s : State) (b0 b1 b2 b3 : Byte) (hp : s.phase = .crcf) (h0 : s.pos.toNat = 8 + s.plen.toNat)
    (hlt : 12 + s.plen.toNat < 2 ^ 32) :
    frameSteps [b0, b1, b2, b3] s = frameVerdict { s with pos := s.pos + 4, acc := be32 b0 b1 b2 b3 } := by
  have t1 : (s.pos + 1).toNat = s.pos.toNat + 1 := by simp; omega
  have t2 : (s.pos + 1 + 1).toNat = s.pos.toNat + 2 := by simp; omega
  have t3 : (s.pos + 1 + 1 + 1).toNat = s.pos.toNat + 3 := by simp; omega
  have e0 := frameStep_crcf b0 s hp (by omega)
  have e1 := frameStep_crcf b1 { s with pos := s.pos + 1, acc := shiftIn s.acc b0 } hp (by simp only [t1]; omega)
  have e2 := frameStep_crcf b2 { s with pos := s.pos + 1 + 1, acc := shiftIn (shiftIn s.acc b0) b1 } hp
    (by simp only [t2]; omega)
  have e3 := frameStep_crcf_last b3
    { s with pos := s.pos + 1 + 1 + 1, acc := shiftIn (shiftIn (shiftIn s.acc b0) b1) b2 } hp (by simp only [t3]; omega)
  have hpos : s.pos + 1 + 1 + 1 + 1 = s.pos + 4 := by simp [BitVec.add_assoc]
  simp only [shiftIn_four, hpos] at e3
  simp only [frameSteps_cons_none e0, frameSteps_cons_none e1, frameSteps_cons_none e2]
  rcases hr : frameVerdict { s with pos := s.pos + 4, acc := be32 b0 b1 b2 b3 } with ⟨t, _ | c⟩ <;> rw [hr] at e3
  · rw [frameSteps_cons_none e3]
    rfl
  · rw [frameSteps_cons_some e3]

end Sys2Proof.Machine
end

