-- ==== Sys2Proof/Laws/Inv.lean ====
section
/-! SUPPORT. What frame bytes do to the invariant of Safety.lean (R39, R158): one byte, and several. -/

namespace Sys2Proof.Machine

theorem toNat_eq_iff {p : Word} {n : Nat} (hn : n < 2 ^ 32) : p.toNat = n ↔ p = BitVec.ofNat 32 n := by
  constructor
  · intro h
    apply BitVec.eq_of_toNat_eq
    simp [h]
    omega
  · rintro rfl
    simp
    omega

/-- The invariant speaks of FRESULT, PHASE and POS, and of BUF_LEN and PLEN while a frame is active. -/
theorem FrameInv_congr {s t : State} (h1 : t.phase = s.phase) (h2 : t.fresult = s.fresult) (h3 : t.pos = s.pos)
    (h4 : active s.phase = true → t.bufLen = s.bufLen ∧ t.plen = s.plen) (hi : FrameInv s) : FrameInv t := by
  cases ha : active s.phase with
  | true =>
    obtain ⟨h5, h6⟩ := h4 ha
    simp only [FrameInv, VerdictLegal, FrameBounded, PositionInField, h1, h2, h3, h5, h6] at *
    exact hi
  | false =>
    have hv := hi.1
    rw [inactive_iff] at ha
    refine ⟨by simpa [VerdictLegal, h1, h2] using hv, ?_, ?_⟩
    · simp only [FrameBounded, h1]
      rcases ha with ha | ha | ha <;> simp [ha, active]
    · simp only [PositionInField, h1]
      rcases ha with ha | ha | ha <;> simp [ha]

/-- One frame byte: the invariant is kept; without an error POS moves on by 1 and the frame is active or has ended at
BUF_LEN; an error is 2 at POS 3 or 3 at the frame's end (R152). -/
theorem frameStep_inv (b : Byte) (s : State) (hi : FrameInv s) (ha : active s.phase = true) :
    FrameInv (frameStep b s).1
      ∧ ((frameStep b s).2 = none → (frameStep b s).1.pos.toNat = s.pos.toNat + 1
          ∧ (active (frameStep b s).1.phase = true
            ∨ ((frameStep b s).1.phase = .done ∧ s.pos.toNat + 1 = s.bufLen.toNat
              ∧ s.bufLen.toNat = 12 + s.plen.toNat ∧ (frameStep b s).1.plen = s.plen))
          ∧ (frameStep b s).1.fresult = s.fresult)
      ∧ (∀ c, (frameStep b s).2 = some c → (frameStep b s).1.phase = .error ∧ (frameStep b s).1.fresult = c
          ∧ (frameStep b s).1.pos.toNat = s.pos.toNat + 1
          ∧ ((c = .invalidChunkLength ∧ s.pos.toNat = 3)
            ∨ (c = .invalidCrc ∧ s.pos.toNat + 1 = s.bufLen.toNat))) := by
  have hlt := s.bufLen.isLt
  obtain ⟨⟨hv1, hv2⟩, ⟨hb1, hb2⟩, hl, ht, hpay, hc⟩ := hi
  have hB := hb1 ha
  have hpos : (s.pos + 1).toNat = s.pos.toNat + 1 := by simp; omega
  have hok : s.fresult = .ok := by
    by_contra hne
    have := hv2.1 hne
    rw [this] at ha
    simp [active] at ha
  have h1' : (s.bufLen - 12).toNat = s.bufLen.toNat - 12 := by rw [BitVec.toNat_sub]; simp; omega
  have hz : s.plen = 0 ↔ s.plen.toNat = 0 := by rw [toNat_eq_iff (by omega)]; rfl
  obtain ⟨hp, h1, h⟩ | ⟨hp, h1, _, h⟩ | ⟨hp, h1, hni, h12, h⟩ | ⟨hp, h1, h⟩ | ⟨hp, h1, h⟩ | ⟨hp, h⟩ | ⟨hp, h1, h⟩
      | ⟨hp, h1, _, h⟩ | ⟨hp, h1, _, h⟩ := frameStep_cases b s ha <;> simp only [hp, h] at * <;> clear h <;>
    simp only [FrameInv, VerdictLegal, FrameBounded, PositionInField, active, hpos, hok, h1'] at * <;>
    (try simp at *)
  all_goals first
    | omega
    | (split_ifs with h0
       · have := hz.1 h0
         simp [h0]
         omega
       · have : s.plen.toNat ≠ 0 := fun h => h0 (hz.2 h)
         simp [h0]
         omega)
    | (split_ifs with h0 <;> simp <;> omega)

/-- Several frame bytes, no more than the frame has left (R155). -/
theorem frameSteps_inv (bs : List Byte) (s : State) (hi : FrameInv s) (ha : active s.phase = true)
    (h : s.pos.toNat + bs.length ≤ s.bufLen.toNat) :
    FrameInv (frameSteps bs s).1
      ∧ ((frameSteps bs s).2 = none → (frameSteps bs s).1.pos.toNat = s.pos.toNat + bs.length
          ∧ (frameSteps bs s).1.fresult = s.fresult
          ∧ (active (frameSteps bs s).1.phase = true
            ∨ ((frameSteps bs s).1.phase = .done ∧ (frameSteps bs s).1.pos = s.bufLen
              ∧ s.bufLen.toNat = 12 + (frameSteps bs s).1.plen.toNat)))
      ∧ (∀ c, (frameSteps bs s).2 = some c → (frameSteps bs s).1.phase = .error ∧ (frameSteps bs s).1.fresult = c
          ∧ ((c = .invalidChunkLength ∧ (frameSteps bs s).1.pos.toNat = 4)
            ∨ (c = .invalidCrc ∧ (frameSteps bs s).1.pos.toNat = s.bufLen.toNat))) := by
  induction bs generalizing s with
  | nil =>
    exact ⟨hi, fun _ => ⟨rfl, rfl, .inl ha⟩, fun c hc => by cases hc⟩
  | cons b bs ih =>
    obtain ⟨h1, h2, h3⟩ := frameStep_inv b s hi ha
    have hf := frameStep_frame b s
    rcases hr : frameStep b s with ⟨t, _ | c⟩
    · rw [frameSteps_cons_none hr]
      rw [hr] at h1 h2 h3 hf
      simp only [List.length_cons] at h
      obtain ⟨hpos, hact, hfr⟩ := h2 rfl
      simp only at hf hpos hact hfr h1
      have hlen : t.pos.toNat + bs.length ≤ t.bufLen.toNat := by rw [hpos, hf.2.2.1]; omega
      rcases hact with hact | ⟨hd, he, hL, hpl⟩
      · obtain ⟨i1, i2, i3⟩ := ih t h1 hact hlen
        rw [hf.2.2.1] at i2 i3
        refine ⟨i1, fun hn => ?_, i3⟩
        obtain ⟨a, b, c⟩ := i2 hn
        exact ⟨by rw [a, List.length_cons]; omega, b.trans hfr, c⟩
      · cases bs with
        | nil =>
          simp only [frameSteps]
          refine ⟨h1, fun _ => ⟨by simp [hpos], hfr, .inr ⟨hd, ?_, by rw [hpl]; exact hL⟩⟩, fun c hc => by cases hc⟩
          apply BitVec.eq_of_toNat_eq
          omega
        | cons b' bs' =>
          simp only [List.length_cons] at h
          omega
    · rw [frameSteps_cons_some hr]
      rw [hr] at h1 h3
      simp only at h1 h3
      obtain ⟨a, b, _, d⟩ := h3 c rfl
      refine ⟨h1, ⟨fun hn => by simp at hn, fun c2 hc2 => ?_⟩⟩
      simp only [Option.some.injEq] at hc2
      subst hc2
      refine ⟨a, b, ?_⟩
      rcases d with ⟨d1, d2⟩ | ⟨d1, d2⟩
      · exact .inl ⟨d1, by simp only; omega⟩
      · exact .inr ⟨d1, by simp only; omega⟩

end Sys2Proof.Machine
end

