-- ==== Sys2Proof/Laws/PerInstr.lean ====
section
/-! SUPPORT. The family RoundTrip, instruction by instruction: decoding a well-formed command's word gives the command
back. -/

namespace Sys2Proof.Laws.RoundTrip

def Statement (i : Instr) : Prop := i.wellFormed = true → decode (encode i) = .ok i

theorem nop : Statement .nop := fun _ => rfl
theorem crcInit : Statement .crcInit := fun _ => rfl
theorem crcByte (b : Byte) : Statement (.crcByte b) := fun _ => by
  simp [encode, opcodeOf, immOf, decodeFields, -BitVec.truncate_eq_setWidth]
theorem crcWord : Statement .crcWord := fun _ => rfl
theorem crcCheck : Statement .crcCheck := fun _ => rfl
theorem typeBytes : Statement .typeBytes := fun _ => rfl
theorem typeText (n : Nat) : Statement (.typeText n) := fun h => by
  have hn : n ≤ Config.textLenMax := by simpa [Instr.wellFormed] using h
  simp only [encode, opcodeOf, immOf, decode_append]
  exact (decodeFields_typeText _).trans (by rw [toNat_ofNat_count n hn])
theorem lenParse : Statement .lenParse := fun _ => rfl
theorem frameStart : Statement .frameStart := fun _ => rfl
theorem frameByte (b : Byte) : Statement (.frameByte b) := fun _ => by
  simp [encode, opcodeOf, immOf, decodeFields, -BitVec.truncate_eq_setWidth]
theorem frameWord : Statement .frameWord := fun _ => rfl
theorem frameAbort : Statement .frameAbort := fun _ => rfl
theorem clrErr : Statement .clrErr := fun _ => rfl

end Sys2Proof.Laws.RoundTrip
end

