-- ==== Sys2Proof/Laws/State.lean ====
section
/-! SUPPORT. What each named update does to each field of State, so that no proof unfolds a record update. -/

namespace Sys2Proof.Machine

@[simp] theorem finishOk_data (s : State) : (finishOk s).data = s.data := rfl
@[simp] theorem finishOk_result (s : State) : (finishOk s).result = .ok := rfl
@[simp] theorem finishOk_err (s : State) : (finishOk s).err = s.err := rfl
@[simp] theorem finishOk_phase (s : State) : (finishOk s).phase = s.phase := rfl
@[simp] theorem finishOk_fresult (s : State) : (finishOk s).fresult = s.fresult := rfl
@[simp] theorem finishOk_lenpol (s : State) : (finishOk s).lenpol = s.lenpol := rfl
@[simp] theorem finishOk_bufLen (s : State) : (finishOk s).bufLen = s.bufLen := rfl
@[simp] theorem finishOk_crc (s : State) : (finishOk s).crc = s.crc := rfl
@[simp] theorem finishOk_chunkType (s : State) : (finishOk s).chunkType = s.chunkType := rfl
@[simp] theorem finishOk_len (s : State) : (finishOk s).len = s.len := rfl
@[simp] theorem finishOk_plen (s : State) : (finishOk s).plen = s.plen := rfl
@[simp] theorem finishOk_scrc (s : State) : (finishOk s).scrc = s.scrc := rfl
@[simp] theorem finishOk_pos (s : State) : (finishOk s).pos = s.pos := rfl
@[simp] theorem finishOk_acc (s : State) : (finishOk s).acc = s.acc := rfl
@[simp] theorem finishOk_pending (s : State) : (finishOk s).pending = s.pending := rfl
@[simp] theorem finishOk_observed (s : State) : (finishOk s).observed = s.observed := rfl

@[simp] theorem raiseCode_data (c : ResultCode) (s : State) : (raiseCode c s).data = s.data := rfl
@[simp] theorem raiseCode_result (c : ResultCode) (s : State) : (raiseCode c s).result = c := rfl
@[simp] theorem raiseCode_err (c : ResultCode) (s : State) : (raiseCode c s).err = true := rfl
@[simp] theorem raiseCode_phase (c : ResultCode) (s : State) : (raiseCode c s).phase = s.phase := rfl
@[simp] theorem raiseCode_fresult (c : ResultCode) (s : State) : (raiseCode c s).fresult = s.fresult := rfl
@[simp] theorem raiseCode_lenpol (c : ResultCode) (s : State) : (raiseCode c s).lenpol = s.lenpol := rfl
@[simp] theorem raiseCode_bufLen (c : ResultCode) (s : State) : (raiseCode c s).bufLen = s.bufLen := rfl
@[simp] theorem raiseCode_crc (c : ResultCode) (s : State) : (raiseCode c s).crc = s.crc := rfl
@[simp] theorem raiseCode_chunkType (c : ResultCode) (s : State) : (raiseCode c s).chunkType = s.chunkType := rfl
@[simp] theorem raiseCode_len (c : ResultCode) (s : State) : (raiseCode c s).len = s.len := rfl
@[simp] theorem raiseCode_plen (c : ResultCode) (s : State) : (raiseCode c s).plen = s.plen := rfl
@[simp] theorem raiseCode_scrc (c : ResultCode) (s : State) : (raiseCode c s).scrc = s.scrc := rfl
@[simp] theorem raiseCode_pos (c : ResultCode) (s : State) : (raiseCode c s).pos = s.pos := rfl
@[simp] theorem raiseCode_acc (c : ResultCode) (s : State) : (raiseCode c s).acc = s.acc := rfl
@[simp] theorem raiseCode_pending (c : ResultCode) (s : State) : (raiseCode c s).pending = s.pending := rfl
@[simp] theorem raiseCode_observed (c : ResultCode) (s : State) : (raiseCode c s).observed = s.observed := rfl

@[simp] theorem shiftAcc_data (b : Byte) (s : State) : (shiftAcc b s).data = s.data := rfl
@[simp] theorem shiftAcc_result (b : Byte) (s : State) : (shiftAcc b s).result = s.result := rfl
@[simp] theorem shiftAcc_err (b : Byte) (s : State) : (shiftAcc b s).err = s.err := rfl
@[simp] theorem shiftAcc_phase (b : Byte) (s : State) : (shiftAcc b s).phase = s.phase := rfl
@[simp] theorem shiftAcc_fresult (b : Byte) (s : State) : (shiftAcc b s).fresult = s.fresult := rfl
@[simp] theorem shiftAcc_lenpol (b : Byte) (s : State) : (shiftAcc b s).lenpol = s.lenpol := rfl
@[simp] theorem shiftAcc_bufLen (b : Byte) (s : State) : (shiftAcc b s).bufLen = s.bufLen := rfl
@[simp] theorem shiftAcc_crc (b : Byte) (s : State) : (shiftAcc b s).crc = s.crc := rfl
@[simp] theorem shiftAcc_chunkType (b : Byte) (s : State) : (shiftAcc b s).chunkType = s.chunkType := rfl
@[simp] theorem shiftAcc_len (b : Byte) (s : State) : (shiftAcc b s).len = s.len := rfl
@[simp] theorem shiftAcc_plen (b : Byte) (s : State) : (shiftAcc b s).plen = s.plen := rfl
@[simp] theorem shiftAcc_scrc (b : Byte) (s : State) : (shiftAcc b s).scrc = s.scrc := rfl
@[simp] theorem shiftAcc_pos (b : Byte) (s : State) : (shiftAcc b s).pos = s.pos := rfl
@[simp] theorem shiftAcc_acc (b : Byte) (s : State) : (shiftAcc b s).acc = shiftIn s.acc b := rfl
@[simp] theorem shiftAcc_pending (b : Byte) (s : State) : (shiftAcc b s).pending = s.pending := rfl
@[simp] theorem shiftAcc_observed (b : Byte) (s : State) : (shiftAcc b s).observed = s.observed := rfl

@[simp] theorem writeData_data (v : Word) (s : State) : (writeData v s).data = v := rfl
@[simp] theorem writeData_result (v : Word) (s : State) : (writeData v s).result = s.result := rfl
@[simp] theorem writeData_err (v : Word) (s : State) : (writeData v s).err = s.err := rfl
@[simp] theorem writeData_phase (v : Word) (s : State) : (writeData v s).phase = s.phase := rfl
@[simp] theorem writeData_fresult (v : Word) (s : State) : (writeData v s).fresult = s.fresult := rfl
@[simp] theorem writeData_lenpol (v : Word) (s : State) : (writeData v s).lenpol = s.lenpol := rfl
@[simp] theorem writeData_bufLen (v : Word) (s : State) : (writeData v s).bufLen = s.bufLen := rfl
@[simp] theorem writeData_crc (v : Word) (s : State) : (writeData v s).crc = s.crc := rfl
@[simp] theorem writeData_chunkType (v : Word) (s : State) : (writeData v s).chunkType = s.chunkType := rfl
@[simp] theorem writeData_len (v : Word) (s : State) : (writeData v s).len = s.len := rfl
@[simp] theorem writeData_plen (v : Word) (s : State) : (writeData v s).plen = s.plen := rfl
@[simp] theorem writeData_scrc (v : Word) (s : State) : (writeData v s).scrc = s.scrc := rfl
@[simp] theorem writeData_pos (v : Word) (s : State) : (writeData v s).pos = s.pos := rfl
@[simp] theorem writeData_acc (v : Word) (s : State) : (writeData v s).acc = s.acc := rfl
@[simp] theorem writeData_pending (v : Word) (s : State) : (writeData v s).pending = s.pending := rfl
@[simp] theorem writeData_observed (v : Word) (s : State) : (writeData v s).observed = s.observed := rfl

@[simp] theorem placeCommand_data (w : Word) (s : State) : (placeCommand w s).data = s.data := rfl
@[simp] theorem placeCommand_result (w : Word) (s : State) : (placeCommand w s).result = s.result := rfl
@[simp] theorem placeCommand_err (w : Word) (s : State) : (placeCommand w s).err = s.err := rfl
@[simp] theorem placeCommand_phase (w : Word) (s : State) : (placeCommand w s).phase = s.phase := rfl
@[simp] theorem placeCommand_fresult (w : Word) (s : State) : (placeCommand w s).fresult = s.fresult := rfl
@[simp] theorem placeCommand_lenpol (w : Word) (s : State) : (placeCommand w s).lenpol = s.lenpol := rfl
@[simp] theorem placeCommand_bufLen (w : Word) (s : State) : (placeCommand w s).bufLen = s.bufLen := rfl
@[simp] theorem placeCommand_crc (w : Word) (s : State) : (placeCommand w s).crc = s.crc := rfl
@[simp] theorem placeCommand_chunkType (w : Word) (s : State) : (placeCommand w s).chunkType = s.chunkType := rfl
@[simp] theorem placeCommand_len (w : Word) (s : State) : (placeCommand w s).len = s.len := rfl
@[simp] theorem placeCommand_plen (w : Word) (s : State) : (placeCommand w s).plen = s.plen := rfl
@[simp] theorem placeCommand_scrc (w : Word) (s : State) : (placeCommand w s).scrc = s.scrc := rfl
@[simp] theorem placeCommand_pos (w : Word) (s : State) : (placeCommand w s).pos = s.pos := rfl
@[simp] theorem placeCommand_acc (w : Word) (s : State) : (placeCommand w s).acc = s.acc := rfl
@[simp] theorem placeCommand_pending (w : Word) (s : State) : (placeCommand w s).pending = .write 0x00 w :: s.pending := rfl
@[simp] theorem placeCommand_observed (w : Word) (s : State) : (placeCommand w s).observed = s.observed := rfl

@[simp] theorem resetBlock_data (s : State) : (resetBlock s).data = 0 := rfl
@[simp] theorem resetBlock_result (s : State) : (resetBlock s).result = .ok := rfl
@[simp] theorem resetBlock_err (s : State) : (resetBlock s).err = false := rfl
@[simp] theorem resetBlock_phase (s : State) : (resetBlock s).phase = .idle := rfl
@[simp] theorem resetBlock_fresult (s : State) : (resetBlock s).fresult = .ok := rfl
@[simp] theorem resetBlock_lenpol (s : State) : (resetBlock s).lenpol = .strict := rfl
@[simp] theorem resetBlock_bufLen (s : State) : (resetBlock s).bufLen = 0 := rfl
@[simp] theorem resetBlock_crc (s : State) : (resetBlock s).crc = 0xFFFFFFFF := rfl
@[simp] theorem resetBlock_chunkType (s : State) : (resetBlock s).chunkType = 0 := rfl
@[simp] theorem resetBlock_len (s : State) : (resetBlock s).len = 0 := rfl
@[simp] theorem resetBlock_plen (s : State) : (resetBlock s).plen = 0 := rfl
@[simp] theorem resetBlock_scrc (s : State) : (resetBlock s).scrc = 0 := rfl
@[simp] theorem resetBlock_pos (s : State) : (resetBlock s).pos = 0 := rfl
@[simp] theorem resetBlock_acc (s : State) : (resetBlock s).acc = 0 := rfl
@[simp] theorem resetBlock_pending (s : State) : (resetBlock s).pending = s.pending := rfl
@[simp] theorem resetBlock_observed (s : State) : (resetBlock s).observed = s.observed := rfl

@[simp] theorem writeCtrl_data (v : Word) (s : State) : (writeCtrl v s).data = s.data := by
  unfold writeCtrl; split <;> rfl
@[simp] theorem writeCtrl_result (v : Word) (s : State) : (writeCtrl v s).result = s.result := by
  unfold writeCtrl; split <;> rfl
@[simp] theorem writeCtrl_err (v : Word) (s : State) : (writeCtrl v s).err = s.err := by
  unfold writeCtrl; split <;> rfl
@[simp] theorem writeCtrl_phase (v : Word) (s : State) : (writeCtrl v s).phase = s.phase := by
  unfold writeCtrl; split <;> rfl
@[simp] theorem writeCtrl_fresult (v : Word) (s : State) : (writeCtrl v s).fresult = s.fresult := by
  unfold writeCtrl; split <;> rfl
@[simp] theorem writeCtrl_lenpol (v : Word) (s : State) :
    (writeCtrl v s).lenpol = if active s.phase then s.lenpol else policyOfWord v := by
  unfold writeCtrl; split <;> rfl
@[simp] theorem writeCtrl_bufLen (v : Word) (s : State) : (writeCtrl v s).bufLen = s.bufLen := by
  unfold writeCtrl; split <;> rfl
@[simp] theorem writeCtrl_crc (v : Word) (s : State) : (writeCtrl v s).crc = s.crc := by
  unfold writeCtrl; split <;> rfl
@[simp] theorem writeCtrl_chunkType (v : Word) (s : State) : (writeCtrl v s).chunkType = s.chunkType := by
  unfold writeCtrl; split <;> rfl
@[simp] theorem writeCtrl_len (v : Word) (s : State) : (writeCtrl v s).len = s.len := by
  unfold writeCtrl; split <;> rfl
@[simp] theorem writeCtrl_plen (v : Word) (s : State) : (writeCtrl v s).plen = s.plen := by
  unfold writeCtrl; split <;> rfl
@[simp] theorem writeCtrl_scrc (v : Word) (s : State) : (writeCtrl v s).scrc = s.scrc := by
  unfold writeCtrl; split <;> rfl
@[simp] theorem writeCtrl_pos (v : Word) (s : State) : (writeCtrl v s).pos = s.pos := by
  unfold writeCtrl; split <;> rfl
@[simp] theorem writeCtrl_acc (v : Word) (s : State) : (writeCtrl v s).acc = s.acc := by
  unfold writeCtrl; split <;> rfl
@[simp] theorem writeCtrl_pending (v : Word) (s : State) : (writeCtrl v s).pending = s.pending := by
  unfold writeCtrl; split <;> rfl
@[simp] theorem writeCtrl_observed (v : Word) (s : State) : (writeCtrl v s).observed = s.observed := by
  unfold writeCtrl; split <;> rfl

@[simp] theorem writeBufLen_data (v : Word) (s : State) : (writeBufLen v s).data = s.data := by
  unfold writeBufLen; split <;> rfl
@[simp] theorem writeBufLen_result (v : Word) (s : State) : (writeBufLen v s).result = s.result := by
  unfold writeBufLen; split <;> rfl
@[simp] theorem writeBufLen_err (v : Word) (s : State) : (writeBufLen v s).err = s.err := by
  unfold writeBufLen; split <;> rfl
@[simp] theorem writeBufLen_phase (v : Word) (s : State) : (writeBufLen v s).phase = s.phase := by
  unfold writeBufLen; split <;> rfl
@[simp] theorem writeBufLen_fresult (v : Word) (s : State) : (writeBufLen v s).fresult = s.fresult := by
  unfold writeBufLen; split <;> rfl
@[simp] theorem writeBufLen_lenpol (v : Word) (s : State) : (writeBufLen v s).lenpol = s.lenpol := by
  unfold writeBufLen; split <;> rfl
@[simp] theorem writeBufLen_bufLen (v : Word) (s : State) :
    (writeBufLen v s).bufLen = if active s.phase then s.bufLen else v := by
  unfold writeBufLen; split <;> rfl
@[simp] theorem writeBufLen_crc (v : Word) (s : State) : (writeBufLen v s).crc = s.crc := by
  unfold writeBufLen; split <;> rfl
@[simp] theorem writeBufLen_chunkType (v : Word) (s : State) : (writeBufLen v s).chunkType = s.chunkType := by
  unfold writeBufLen; split <;> rfl
@[simp] theorem writeBufLen_len (v : Word) (s : State) : (writeBufLen v s).len = s.len := by
  unfold writeBufLen; split <;> rfl
@[simp] theorem writeBufLen_plen (v : Word) (s : State) : (writeBufLen v s).plen = s.plen := by
  unfold writeBufLen; split <;> rfl
@[simp] theorem writeBufLen_scrc (v : Word) (s : State) : (writeBufLen v s).scrc = s.scrc := by
  unfold writeBufLen; split <;> rfl
@[simp] theorem writeBufLen_pos (v : Word) (s : State) : (writeBufLen v s).pos = s.pos := by
  unfold writeBufLen; split <;> rfl
@[simp] theorem writeBufLen_acc (v : Word) (s : State) : (writeBufLen v s).acc = s.acc := by
  unfold writeBufLen; split <;> rfl
@[simp] theorem writeBufLen_pending (v : Word) (s : State) : (writeBufLen v s).pending = s.pending := by
  unfold writeBufLen; split <;> rfl
@[simp] theorem writeBufLen_observed (v : Word) (s : State) : (writeBufLen v s).observed = s.observed := by
  unfold writeBufLen; split <;> rfl

end Sys2Proof.Machine
end

