-- ==== Sys2Proof/Tests/Slice0.lean ====
section
/-! SUPPORT. Tests: words and results written out from spec/ (its encodings, and its vectors of spec/95_test_vectors.md,
named at each test), and for each statement with hypotheses a state and operands that meet them. -/

namespace Sys2Proof.Tests

open Sys2Proof.Machine

/-! ### Small states -/

/-- The reset state with a frame at a position. -/
def frameAt (p : Phase) (pos bufLen plen : Word) : State :=
  { State.reset with phase := p, pos := pos, bufLen := bufLen, plen := plen }

/-- One step from a state whose host writes the given word to CMD. -/
def after (w : Nat) (s : State) : Option State := nextState (step (s.withFetchWord 32 w))

/-! ### Well-formed commands -/

theorem test_count_above_24_bits_is_refused : (Instr.typeText 0x1000000).wellFormed = false := by decide
theorem test_count_of_24_bits_is_well_formed : (Instr.typeText 0xFFFFFF).wellFormed = true := by decide

/-! ### Decoding: every constructor, from R71 and R72 -/

theorem test_decode_nop : decode 0x00000000 = .ok .nop := by decide
theorem test_decode_crcInit : decode 0x01000000 = .ok .crcInit := by decide
theorem test_decode_crcByte : decode 0x0200005A = .ok (.crcByte 0x5A) := by decide
theorem test_decode_crcWord : decode 0x03000000 = .ok .crcWord := by decide
theorem test_decode_crcCheck : decode 0x04000000 = .ok .crcCheck := by decide
theorem test_decode_typeBytes : decode 0x10000000 = .ok .typeBytes := by decide
theorem test_decode_typeText : decode 0x11800001 = .ok (.typeText 0x800001) := by decide
theorem test_decode_lenParse : decode 0x20000000 = .ok .lenParse := by decide
theorem test_decode_frameStart : decode 0x30000000 = .ok .frameStart := by decide
theorem test_decode_frameByte : decode 0x310000A5 = .ok (.frameByte 0xA5) := by decide
theorem test_decode_frameWord : decode 0x32000000 = .ok .frameWord := by decide
theorem test_decode_frameAbort : decode 0x33000000 = .ok .frameAbort := by decide
theorem test_decode_clrErr : decode 0x7F000000 = .ok .clrErr := by decide

/-- OPCODE bit by bit: LEN_PARSE is 0b00100000 over 24 zero bits. -/
theorem test_decode_lenParse_bits : decode (0b00100000#8 ++ 0b000000000000000000000000#24) = .ok .lenParse := by decide

theorem test_decode_bit_23_of_a_byte_command : decode 0x02800000 = .error (.reservedNotZero 0x02 0x800000) := by decide
theorem test_decode_unassigned : decode 0xFF000000 = .error (.unassignedOpcode 0xFF) := by decide
theorem test_decodeTableWord : decodeTableWord 32 0x11000004 = some (.typeText 4) := by decide
theorem test_decodeTableWord_refuses : decodeTableWord 32 0x12000000 = none := by decide

/-- A table row's word is the first command that runs after reset. -/
theorem test_withFetchWord_runs_first :
    nextState (step (State.reset.withFetchWord 32 0x30000000)) = nextState (exec .frameStart State.reset) := by
  decide +kernel

/-! ### Instructions (spec/95_test_vectors.md) -/

/-- V-CTL-1's last command, and V-CTL-3. -/
theorem test_nop_keeps_err :
    (after 0x00000000 { State.reset with result := .invalidCrc, err := true }).map statusWord = some 0x0010 := by
  decide +kernel
theorem test_nop_with_immediate_is_illegal : (after 0x00000001 State.reset).map statusWord = some 0x0016 := by
  decide +kernel

/-- V-CTL-2's last command, and V-CTL-4's. -/
theorem test_clrErr :
    (after 0x7F000000 { State.reset with result := .invalidCrc, err := true }).map statusWord = some 0 := by
  decide +kernel
theorem test_clrErr_illegal_word_keeps_err :
    (after 0x7F000001 { State.reset with result := .ok, err := true }).map statusWord = some 0x0016 := by
  decide +kernel

/-- V-CRC-10. -/
theorem test_crcInit : (after 0x01000000 { State.reset with crc := 0x2B7BF6C3 }).map State.crc = some 0xFFFFFFFF := by
  decide +kernel

/-- V-CRC-2, and V-CRC-5b's second command. -/
theorem test_crcByte_a : (after 0x02000061 State.reset).map State.crc = some 0x174841BC := by decide +kernel
theorem test_crcByte_second :
    (after 0x02000075 { State.reset with crc := 0xA89820AA }).map State.crc = some 0x16C45765 := by
  decide +kernel

/-- V-CRC-5, V-CRC-11. -/
theorem test_crcWord_rust : (after 0x03000000 { State.reset with data := 0x52755374 }).map crcOut = some 0xD484093C := by
  decide +kernel
theorem test_crcWord_iend : (after 0x03000000 { State.reset with data := 0x49454E44 }).map crcOut = some 0xAE426082 := by
  decide +kernel

/-- V-CRC-8, V-CRC-9. -/
theorem test_crcCheck_match :
    (after 0x04000000 { State.reset with crc := 0x2B7BF6C3, data := 0xD484093C }).map
      (fun s => (statusWord s, s.scrc)) = some (0x0000, 0xD484093C) := by
  decide +kernel
theorem test_crcCheck_mismatch :
    (after 0x04000000 { State.reset with crc := 0x2B7BF6C3, data := 0xD484093D }).map
      (fun s => (statusWord s, s.scrc, s.crc)) = some (0x0013, 0xD484093D, 0x2B7BF6C3) := by
  decide +kernel

/-- V-TYP-10, V-TYP-12. -/
theorem test_typeBytes_digits :
    (after 0x10000000 { State.reset with data := 0x30313233 }).map (fun s => (s.chunkType, typeFlags s.chunkType))
      = some (0x30313233, 0) := by
  decide +kernel
theorem test_typeBytes_question_mark :
    (after 0x10000000 { State.reset with data := 0x5275733F }).map (fun s => typeFlags s.chunkType) = some 1 := by
  decide +kernel

/-- V-TYP-1, then V-TYP-2's last command (code 4) and V-TYP-8/5B (code 5). -/
theorem test_typeText_rust :
    (after 0x11000004 { State.reset with data := 0x52755374 }).map
      (fun s => (statusWord s, s.chunkType, typeFlags s.chunkType)) = some (0, 0x52755374, 0x3D) := by
  decide +kernel
theorem test_typeText_errors :
    (after 0x11000003 { State.reset with data := 0x49484452, chunkType := 0x52755374 }).map
        (fun s => (statusWord s, s.chunkType)) = some (0x0014, 0x52755374)
      ∧ (after 0x11000004 { State.reset with data := 0x4141415B }).map (fun s => (statusWord s, s.chunkType))
        = some (0x0015, 0) := by
  decide +kernel

/-- V-LEN-5: D + 12 is 2^32 and does not wrap; V-LEN-10. -/
theorem test_lenParse_does_not_wrap :
    (after 0x20000000 { State.reset with bufLen := 12, data := 0xFFFFFFF4 }).map (fun s => (statusWord s, s.len))
      = some (0x0012, 0xFFFFFFF4) := by
  decide +kernel
theorem test_lenParse_bound :
    (after 0x20000000 { State.reset with bufLen := 60, data := 42, lenpol := .bound }).map
      (fun s => (statusWord s, s.len, s.plen)) = some (0, 0x2A, 0x30) := by
  decide +kernel

/-- V-FRM-2, V-FRM-15's last command. -/
theorem test_frameStart_short :
    (after 0x30000000 { State.reset with bufLen := 11 }).map (fun s => (statusWord s, s.pos, s.crc))
      = some (0x1611, 0, 0xFFFFFFFF) := by
  decide +kernel
theorem test_frameStart_restarts :
    (after 0x30000000 { frameAt .payload 8 54 42 with crc := 0x2B7BF6C3, chunkType := 0x52755374, len := 42 }).map
      (fun s => (statusWord s, s.pos, s.plen, s.len, s.crc, s.chunkType))
      = some (0x0100, 0, 0, 0, 0xFFFFFFFF, 0x52755374) := by
  decide +kernel

/-- V-FRM-11's last command, V-FRM-20's. -/
theorem test_frameByte_after_done :
    (after 0x31000000 (frameAt .done 12 12 0)).map (fun s => (statusWord s, s.pos)) = some (0x0517, 12) := by
  decide +kernel
theorem test_frameByte_illegal_word :
    (after 0x31000100 (frameAt .len 0 12 0)).map (fun s => (statusWord s, s.pos)) = some (0x0116, 0) := by
  decide +kernel

/-- V-FRM-8's last command: the length fails at the word's second byte and the type bytes are discarded. V-FRM-13's last
command: 2 bytes remain. -/
theorem test_frameWord_length_error :
    (after 0x32000000 { frameAt .len 2 54 0 with data := 0x002B5275 }).map
      (fun s => (statusWord s, s.len, s.pos, s.crc)) = some (0x2612, 0x2B, 4, 0xFFFFFFFF) := by
  decide +kernel
theorem test_frameWord_two_bytes_left :
    (after 0x32000000 { frameAt .crcf 52 54 42 with data := 0xD84E0000 }).map (fun s => (statusWord s, s.pos))
      = some (0x0417, 52) := by
  decide +kernel

/-- V-FRM-16's and V-FRM-18's last commands. -/
theorem test_frameAbort_keeps_pos_and_crc :
    (after 0x33000000 { frameAt .payload 8 54 42 with crc := 0x2B7BF6C3 }).map (fun s => (statusWord s, s.pos, s.crc))
      = some (0, 8, 0x2B7BF6C3) := by
  decide +kernel
theorem test_frameAbort_keeps_err :
    (after 0x33000000 { frameAt .error 4 12 0 with fresult := .invalidChunkLength, err := true }).map statusWord
      = some 0x0010 := by
  decide +kernel

/-! ### The bus and the assembler -/

/-- V-BUS-2: offset bits [1:0] are ignored. V-BUS-3. -/
theorem test_read_ignores_low_bits : busRead 0x1B { State.reset with crc := 0x174841BC } = 0xE8B7BE43 := by decide +kernel
theorem test_read_unmapped : busRead 0x3C State.reset = 0 := by decide +kernel

/-- R201, R26: STATUS of each result code, and of each phase. -/
theorem test_status_numbers :
    [ResultCode.ok, .invalidInput, .invalidChunkLength, .invalidCrc, .invalidChunkTypeLength, .invalidChunkTypeCharacter,
        .illegalCommand, .sequenceError].map (fun c => busRead 0x08 { State.reset with result := c })
      = [0, 1, 2, 3, 4, 5, 6, 7]
    ∧ [Phase.idle, .len, .type, .payload, .crcf, .done, .error].map (fun p => busRead 0x08 (frameAt p 0 12 0))
      = [0x000, 0x100, 0x200, 0x300, 0x400, 0x500, 0x600] := by
  decide +kernel

/-- V-BUS-5; R24, V-LEN-16. -/
theorem test_write_ignores_low_bits :
    (nextState (transact (.write 0x07 0x1234) State.reset)).map State.data = some 0x1234 := by
  decide +kernel
theorem test_ctrl_stores_bit_0 :
    (nextState (transact (.write 0x0C 3) State.reset)).map ctrlWord = some 1 := by
  decide +kernel

/-- R77, R78. -/
theorem test_assemble_type_text :
    (parseLine "type.text 0x52755374, 4 ; RuSt".toList).bind assembleStmts
      = some [.write 0x04 0x52755374, .write 0x00 0x11000004] := by
  decide +kernel
theorem test_assemble_crc_feed :
    (parseLine "crc.feed [1, 2, 3, 4, 0x61]".toList).bind assembleStmts
      = some [.write 0x04 0x01020304, .write 0x00 0x03000000, .write 0x00 0x02000061] := by
  decide +kernel
theorem test_assemble_type_str :
    (parseLine ("type.str ".toList ++ [doubleQuote, 'a', 'b', doubleQuote])).bind assembleStmts
      = some [.write 0x04 0, .write 0x00 0x11000002] := by
  decide +kernel
theorem test_assemble_rejects_a_byte_above_255 : parseLine "frame.byte 256".toList = none := by decide +kernel

/-! ### Witnesses: the hypotheses of each statement can be met -/

theorem witness_DecodeInvertsEncode : (Instr.typeText 0xFFFFFF).wellFormed = true := by decide

theorem witness_EncodeInvertsDecode : decode 0x310000FF = .ok (.frameByte 0xFF) := by decide

theorem witness_MaskMatchTableSelectsTheCommand :
    decode 0x11FFFFFF = .ok (.typeText 0xFFFFFF)
      ∧ rowOf (.frameByte 0) ∈ commandRows ∧ (rowOf (.frameByte 0)).selects 0x310000FF := by decide

theorem witness_WordsAreLegalOrChangeOnlyResultAndErr :
    (0xFF#8 ∉ [0x00#8, 0x01, 0x02, 0x03, 0x04, 0x10, 0x11, 0x20, 0x30, 0x31, 0x32, 0x33, 0x7F])
      ∧ (0x7F#8 ∈ [0x00#8, 0x01, 0x03, 0x04, 0x10, 0x20, 0x30, 0x32, 0x33, 0x7F] ∧ 0x000001#24 ≠ 0)
      ∧ (0x31#8 ∈ [0x02#8, 0x31] ∧ (0x000100#24).extractLsb' 8 16 ≠ 0)
      ∧ (0x7F#8 ∈ [0x00#8, 0x01, 0x03, 0x04, 0x10, 0x20, 0x30, 0x32, 0x33, 0x7F] ∧ 0x000000#24 = 0)
      ∧ (0x31#8 ∈ [0x02#8, 0x31] ∧ (0x0000FF#24).extractLsb' 8 16 = 0) :=
  ⟨by decide, by decide, by decide, by decide, by decide⟩

theorem witness_StepExecutesTheDecodedCommand :
    ({ State.reset with pending := [.write 0x03 0x110000FF, .reset] } : State).pending
        = .write 0x03 0x110000FF :: [.reset]
      ∧ 0x03#6 &&& 0x3C = 0x00 ∧ decode 0x110000FF = .ok (.typeText 0xFF) := by decide

theorem witness_StepsCarryOutTransactionsInOrder :
    ({ State.reset with pending := [.reset, .read 0, .write 0x04 1] } : State).pending
      = [.reset, .read 0] ++ [.write 0x04 1] := by decide

/-- EveryStepAnswersANextState, its second clause: a state with nothing pending. -/
theorem witness_EveryStepAnswersANextState : State.reset.pending = [] := rfl

/-- The first and the last byte offset of each slot. -/
theorem witness_ReadReturnsTheSlotAndChangesNoRegister :
    ∀ k : Fin 16, (BitVec.ofNat 6 (4 * k) &&& 0x3C = BitVec.ofNat 6 (4 * k))
      ∧ (BitVec.ofNat 6 (4 * k + 3) &&& 0x3C = BitVec.ofNat 6 (4 * k)) := by decide

theorem witness_WriteReachesTheSlotOrIsIgnored :
    (0x03#6 &&& 0x3C = 0x00) ∧ (0x07#6 &&& 0x3C = 0x04)
      ∧ (0x0F#6 &&& 0x3C = 0x0C ∧ active State.reset.phase = false)
      ∧ (0x13#6 &&& 0x3C = 0x10 ∧ active (frameAt .done 12 12 0).phase = false)
      ∧ (0x10#6 &&& 0x3C = 0x10 ∧ active (frameAt .crcf 11 12 0).phase = true)
      ∧ (0x08#6 &&& 0x3C ∉ [0x00#6, 0x04, 0x0C, 0x10]) ∧ (0x3F#6 &&& 0x3C ∉ [0x00#6, 0x04, 0x0C, 0x10]) := by decide

theorem witness_StallCyclesChangeNoOutcome :
    (⟨true, true, true, 1, 5, true⟩ : Pins).rst = true
      ∧ ((⟨false, true, true, 1, 5, false⟩ : Pins).rst = false ∧ (⟨false, true, true, 1, 5, false⟩ : Pins).ready = false)
      ∧ ((⟨false, true, false, 15, 0, true⟩ : Pins).sel = true ∧ (⟨false, true, false, 15, 0, true⟩ : Pins).we = false)
      ∧ ((⟨false, true, true, 15, 0, true⟩ : Pins).ready = true ∧ (⟨false, true, true, 15, 0, true⟩ : Pins).we = true) := by
  decide

/-- NopClearsResultOnly, ClrErrClearsErrAndResult, FrameAbortGoesIdle: the illegal word's immediate. -/
theorem witness_illegal_immediate : 0x000001#24 ≠ 0 ∧ 0x800000#24 ≠ 0 := by decide

/-- CrcInitSeedsTheChecksum, CrcWordUpdatesByFourBytes, TypeBytesTakesData: no frame active, one active, an illegal word. -/
theorem witness_standalone_commands :
    active State.reset.phase = false ∧ active (frameAt .error 4 12 0).phase = false
      ∧ active (frameAt .len 0 12 0).phase = true ∧ 0xFFFFFF#24 ≠ 0 := by decide

theorem witness_CrcByteUpdatesTheChecksum :
    active State.reset.phase = false ∧ active (frameAt .type 4 12 0).phase = true
      ∧ (0x000100#24).extractLsb' 8 16 ≠ 0 := by decide

theorem witness_CrcCheckComparesWithData :
    (active State.reset.phase = false ∧ State.reset.crc ^^^ 0xFFFFFFFF = State.reset.data)
      ∧ (active ({ State.reset with data := 1 } : State).phase = false
        ∧ ({ State.reset with data := 1 } : State).crc ^^^ 0xFFFFFFFF ≠ ({ State.reset with data := 1 } : State).data)
      ∧ active (frameAt .payload 8 13 1).phase = true := by decide

/-- ChecksumDoesNotDependOnTheSplit, CrcWordIsFourCrcBytes, ChunkNewChecksum, LenParseAcceptanceSets, and both states of
LenParseDependsOnItsOperandsOnly. -/
theorem witness_no_frame_active :
    active State.reset.phase = false ∧ ([Piece.word 1, Piece.byte 2] : List Piece) ≠ []
      ∧ active (frameAt .done 12 12 0).phase = false ∧ (frameAt .done 12 12 0).bufLen = (frameAt .idle 3 12 7).bufLen
      ∧ (frameAt .done 12 12 0).data = (frameAt .idle 3 12 7).data
      ∧ (frameAt .done 12 12 0).lenpol = (frameAt .idle 3 12 7).lenpol := by decide

theorem witness_OneFlippedBitChangesTheChecksum : 1 < ([0x52, 0x75] : List Byte).length ∧ 7 < 8 := by decide

theorem witness_LetterTypeFlagsAreBitFive : (typeFlags 0x415A617A).getLsbD 5 = true := by decide +kernel

theorem witness_TypeTextChecksLengthThenLetters :
    active (frameAt .crcf 11 12 0).phase = true ∧ active State.reset.phase = false ∧ 3 ≠ 4 ∧ 5 ≠ 4
      ∧ allLetters 0x415A617A = true ∧ allLetters 0x4141415B = false ∧ allLetters 0x41414160 = false := by
  decide +kernel

/-- LenParseChecksTheDeclaredLength at BUF_LEN 11, 12 and 2^32 − 1, at both policies' edges. -/
theorem witness_LenParseChecksTheDeclaredLength :
    (active State.reset.phase = false ∧ (0x0000000B : Word).toNat < 12)
      ∧ (12 ≤ (0x0000000C : Word).toNat ∧ (1 : Word).toNat + 12 > (0x0000000C : Word).toNat)
      ∧ (12 ≤ (0x0000000D : Word).toNat ∧ Policy.strict = .strict ∧ (0 : Word).toNat + 12 ≠ (0x0000000D : Word).toNat)
      ∧ (12 ≤ (0xFFFFFFFF : Word).toNat
        ∧ ¬ ((0xFFFFFFF3 : Word).toNat + 12 > (0xFFFFFFFF : Word).toNat
          ∨ (Policy.strict = .strict ∧ (0xFFFFFFF3 : Word).toNat + 12 ≠ (0xFFFFFFFF : Word).toNat)))
      ∧ (¬ ((0 : Word).toNat + 12 > (0x0000000D : Word).toNat
          ∨ (Policy.bound = .strict ∧ (0 : Word).toNat + 12 ≠ (0x0000000D : Word).toNat)))
      ∧ active (frameAt .len 0 12 0).phase = true := by decide

theorem witness_LenParseAcceptanceSets :
    active State.reset.phase = false ∧ State.reset.lenpol = .strict
      ∧ ({ State.reset with lenpol := .bound } : State).lenpol = .bound := by decide

theorem witness_TypeRoundTrip : active State.reset.phase = false ∧ allLetters 0x52755374 = true := by decide +kernel

theorem witness_FrameStartBeginsAFrame :
    12 ≤ (frameAt .idle 0 12 0).bufLen.toNat ∧ (frameAt .idle 0 11 0).bufLen.toNat < 12 ∧ 0x000001#24 ≠ 0 := by decide

/-- FrameByteInTheLengthField: inside the field, and at its end with a length that passes and ones that fail. -/
theorem witness_FrameByteInTheLengthField :
    (frameAt .len 2 12 0).phase = .len ∧ (frameAt .len 2 12 0).pos ≠ 3 ∧ (frameAt .len 3 12 0).pos = 3
      ∧ (((frameAt .len 3 12 0).acc <<< 8) ||| (0x01#8).zeroExtend 32 : Word).toNat + 12 > (frameAt .len 3 12 0).bufLen.toNat
      ∧ (((frameAt .len 3 13 0).acc <<< 8) ||| (0x00#8).zeroExtend 32 : Word).toNat + 12
          ≠ (frameAt .len 3 13 0).bufLen.toNat
      ∧ ¬ ((((frameAt .len 3 12 0).acc <<< 8) ||| (0x00#8).zeroExtend 32 : Word).toNat + 12
              > (frameAt .len 3 12 0).bufLen.toNat
          ∨ ((frameAt .len 3 12 0).lenpol = .strict
            ∧ (((frameAt .len 3 12 0).acc <<< 8) ||| (0x00#8).zeroExtend 32 : Word).toNat + 12
              ≠ (frameAt .len 3 12 0).bufLen.toNat)) := by decide

theorem witness_FrameByteInTheTypeField :
    (frameAt .type 6 12 0).phase = .type ∧ (frameAt .type 6 12 0).pos ≠ 7 ∧ (frameAt .type 7 13 1).pos = 7 := by decide

theorem witness_FrameByteInThePayload : (frameAt .payload 8 13 1).phase = .payload := by decide

/-- FrameByteInTheStoredCrc: the three outcomes. -/
theorem witness_FrameByteInTheStoredCrc :
    (frameAt .crcf 10 12 0).phase = .crcf ∧ (frameAt .crcf 10 12 0).pos.toNat ≠ 11 + (frameAt .crcf 10 12 0).plen.toNat
      ∧ (frameAt .crcf 11 12 0).pos.toNat = 11 + (frameAt .crcf 11 12 0).plen.toNat
      ∧ (frameAt .crcf 11 12 0).crc ^^^ 0xFFFFFFFF = ((frameAt .crcf 11 12 0).acc <<< 8) ||| (0x00#8).zeroExtend 32
      ∧ (frameAt .crcf 11 12 0).crc ^^^ 0xFFFFFFFF ≠ ((frameAt .crcf 11 12 0).acc <<< 8) ||| (0x01#8).zeroExtend 32 := by
  decide

theorem witness_FrameBytesRefusedOutOfSequence :
    active (frameAt .done 12 12 0).phase = false
      ∧ (frameAt .crcf 52 54 42).bufLen.toNat < (frameAt .crcf 52 54 42).pos.toNat + 4
      ∧ (0x000100#24).extractLsb' 8 16 ≠ 0 ∧ 0x000001#24 ≠ 0 := by decide

/-- FrameWordIsTheLengthField: BUF_LEN 12 with declared lengths 0 and 1. -/
theorem witness_FrameWordIsTheLengthField :
    (frameAt .len 0 12 0).phase = .len ∧ (frameAt .len 0 12 0).pos = 0 ∧ 4 ≤ (frameAt .len 0 12 0).bufLen.toNat
      ∧ ¬ ((frameAt .len 0 12 0).data.toNat + 12 > (frameAt .len 0 12 0).bufLen.toNat
        ∨ ((frameAt .len 0 12 0).lenpol = .strict
          ∧ (frameAt .len 0 12 0).data.toNat + 12 ≠ (frameAt .len 0 12 0).bufLen.toNat))
      ∧ ({ frameAt .len 0 12 0 with data := 1 } : State).data.toNat + 12
        > ({ frameAt .len 0 12 0 with data := 1 } : State).bufLen.toNat := by decide

theorem witness_FrameWordIsTheTypeField :
    (frameAt .type 4 12 0).phase = .type ∧ (frameAt .type 4 12 0).pos = 4 ∧ 8 ≤ (frameAt .type 4 12 0).bufLen.toNat := by
  decide

theorem witness_FrameWordInThePayload :
    (frameAt .payload 8 16 4).phase = .payload
      ∧ (frameAt .payload 8 16 4).pos.toNat + 4 ≤ 8 + (frameAt .payload 8 16 4).plen.toNat
      ∧ (frameAt .payload 8 16 4).pos.toNat + 4 ≤ (frameAt .payload 8 16 4).bufLen.toNat := by decide

theorem witness_FrameWordIsTheStoredCrc :
    (frameAt .crcf 8 12 0).phase = .crcf ∧ (frameAt .crcf 8 12 0).pos.toNat = 8 + (frameAt .crcf 8 12 0).plen.toNat
      ∧ (frameAt .crcf 8 12 0).pos.toNat + 4 ≤ (frameAt .crcf 8 12 0).bufLen.toNat
      ∧ (frameAt .crcf 8 12 0).crc ^^^ 0xFFFFFFFF = (frameAt .crcf 8 12 0).data
      ∧ ({ frameAt .crcf 8 12 0 with crc := 0 } : State).crc ^^^ 0xFFFFFFFF ≠ (frameAt .crcf 8 12 0).data := by decide

/-- FrameWordIsFrameBytesInOrder, FrameWordConsumesFourBytesOrFails and DoneFrameEndsAtBufLen: a word that crosses from the
payload into the stored CRC, exactly 4 bytes before the frame's end and before it. -/
theorem witness_FrameWordIsFrameBytesInOrder :
    FrameInv (frameAt .crcf 9 13 1) ∧ FrameInv (frameAt .payload 8 13 1) ∧ active (frameAt .payload 8 13 1).phase = true
      ∧ (frameAt .payload 8 13 1).pos.toNat + 4 ≤ (frameAt .payload 8 13 1).bufLen.toNat
      ∧ active (frameAt .crcf 9 13 1).phase = true
      ∧ (frameAt .crcf 9 13 1).pos.toNat + 4 = (frameAt .crcf 9 13 1).bufLen.toNat :=
  ⟨by decide, by decide, by decide, by decide, by decide, by decide⟩

theorem witness_StandaloneCommandsRefusedDuringAFrame :
    opcodeOf .lenParse ∈ [0x01#8, 0x02, 0x03, 0x04, 0x10, 0x11, 0x20] ∧ active (frameAt .crcf 11 12 0).phase = true := by
  decide

/-- OnlyFrameCommandsMoveTheFrame: a NOP's word. -/
theorem witness_OnlyFrameCommandsMoveTheFrame :
    transact (.write 0x00 0x00000000) State.reset = .next (finishOk State.reset)
      ∧ Txn.write 0x00 0x00000000 ≠ .reset ∧ (0x00000000 : Word).extractLsb' 28 4 ≠ 0x3 :=
  ⟨rfl, by decide, by decide⟩

/-- ErrIsSticky: a command that fails, one that ends with 0 and keeps ERR, and a transaction that is no command. -/
theorem witness_ErrIsSticky :
    transact (.write 0x00 0x05000000) State.reset = .next (raiseCode .illegalCommand State.reset)
      ∧ (raiseCode .illegalCommand State.reset).result ≠ .ok ∧ (raiseCode .illegalCommand State.reset).err = true
      ∧ transact (.write 0x00 0x00000000) (raiseCode .illegalCommand State.reset)
        = .next (finishOk (raiseCode .illegalCommand State.reset))
      ∧ (finishOk (raiseCode .illegalCommand State.reset)).result = .ok ∧ (0x00000000 : Word) ≠ 0x7F000000
      ∧ transact (.write 0x04 7) State.reset = .next (writeData 7 State.reset) ∧ 0x04#6 &&& 0x3C ≠ 0x00 :=
  ⟨rfl, by decide, rfl, rfl, rfl, by decide, rfl, by decide⟩

theorem witness_AssembledCommandsAreLegal :
    assembleStmt (.command (.typeText 0xFFFFFF)) = some [.write 0x00 0x11FFFFFF]
      ∧ assembleStmt (.command (.typeText 0x1000000)) = none
      ∧ assembleStmt (.withData 7 .crcWord) = some [.write 0x04 7, .write 0x00 0x03000000]
      ∧ assembleStmt (.chunkCrc 1 [2]) = some [.write 0x00 0x01000000, .write 0x04 1, .write 0x00 0x03000000,
          .write 0x00 0x02000002]
      ∧ 0x00#6 &&& 0x3C = 0x00 ∧ ([1, 2, 3] : List Byte).length ≠ 4 ∧ ([1, 2, 3] : List Byte).length < 4 := by
  decide +kernel

/-- EveryStepKeepsFrameInv: the last byte of a frame that ends DONE. -/
theorem witness_EveryStepKeepsFrameInv :
    FrameInv { frameAt .crcf 11 12 0 with pending := [.write 0x00 0x31000000] }
      ∧ (nextState (step { frameAt .crcf 11 12 0 with pending := [.write 0x00 0x31000000] })).map State.phase
        = some .done := by decide +kernel

/-- ReachableStatesMeetTheInvariants: a frame in progress is reachable. -/
theorem witness_ReachableStatesMeetTheInvariants :
    Reachable { State.reset with bufLen := 12, phase := .len } :=
  ⟨[.write 0x10 12, .write 0x00 0x30000000], rfl⟩

/-- DoneFrameEndsAtBufLen: the last byte of an empty payload's frame. -/
theorem witness_DoneFrameEndsAtBufLen :
    FrameInv (frameAt .crcf 11 12 0) ∧ active (frameAt .crcf 11 12 0).phase = true
      ∧ (nextState (exec (.frameByte 0x00) (frameAt .crcf 11 12 0))).map State.phase = some .done := by decide +kernel

/-- PosStaysWithinBufLenButForASmallerBufLen: the frame's end with a BUF_LEN write of POS, which keeps it, and of one less. -/
theorem witness_PosStaysWithinBufLenButForASmallerBufLen :
    FrameInv (frameAt .done 12 12 0) ∧ (frameAt .done 12 12 0).pos.toNat ≤ (frameAt .done 12 12 0).bufLen.toNat
      ∧ transact (.write 0x10 12) (frameAt .done 12 12 0) = .next (writeBufLen 12 (frameAt .done 12 12 0))
      ∧ transact (.write 0x10 11) (frameAt .done 12 12 0) = .next (writeBufLen 11 (frameAt .done 12 12 0))
      ∧ (11 : Word).toNat < (frameAt .done 12 12 0).pos.toNat :=
  ⟨by decide, by decide, rfl, rfl, by decide⟩

/-- Its second clause, in R34's conflict itself: one byte of a frame of 12, an abort and BUF_LEN 0 leave POS 1. -/
theorem witness_PosStaysWithinItsFrame :
    nextState (exec .frameStart (frameAt .idle 0 12 0)) = some (frameAt .len 0 12 0)
      ∧ (∀ off : BitVec 6, off &&& 0x3C = 0x00 →
        .write off 0x30000000 ∉ [Txn.write 0x00 0x31000000, .write 0x00 0x33000000, .write 0x10 0])
      ∧ (nextState (runTxns [.write 0x00 0x31000000, .write 0x00 0x33000000, .write 0x10 0] (frameAt .len 0 12 0))).map
        (fun u => (u.pos, u.bufLen)) = some (1, 0) := by
  refine ⟨by decide +kernel, by simp, by decide +kernel⟩

/-- FrameVerdictIsChunkParse: a buffer of 11 bytes, too short, and one of 12. -/
theorem witness_FrameVerdictIsChunkParse :
    (List.replicate 11 (0 : Byte)).length ≤ Config.maxBufLen
      ∧ (frameAt .idle 0 11 0).bufLen = BitVec.ofNat 32 (List.replicate 11 (0 : Byte)).length
      ∧ (List.replicate 12 (0 : Byte)).length ≤ Config.maxBufLen
      ∧ (frameAt .idle 0 12 0).bufLen = BitVec.ofNat 32 (List.replicate 12 (0 : Byte)).length := by
  simp [Config.maxBufLen, frameAt]

/-- SerializedChunkParsesBack: the empty IEND chunk of V-FRM-10, fed as words. -/
theorem witness_SerializedChunkParsesBack :
    ([] : List Byte).length ≤ Config.maxPayload
      ∧ (frameAt .idle 0 12 0).bufLen = BitVec.ofNat 32 (12 + ([] : List Byte).length)
      ∧ [Piece.word 0, Piece.word 0x49454E44, Piece.word 0xAE426082].flatMap Piece.bytes = serialize 0x49454E44 [] := by
  refine ⟨by simp [Config.maxPayload], by decide, by decide +kernel⟩

/-- CorruptedChunkVerdicts: a flipped bit in the type (j = 4, under both policies) and in the stored CRC, in the length field under STRICT and BOUND, raising and
lowering the declared length. -/
theorem witness_CorruptedChunkVerdicts :
    ([0x21] : List Byte).length ≤ Config.maxPayload
      ∧ (frameAt .idle 0 13 0).bufLen = BitVec.ofNat 32 (12 + ([0x21] : List Byte).length)
      ∧ (12 < 12 + ([0x21] : List Byte).length ∧ 4 ≤ 12) ∧ (4 < 12 + ([0x21] : List Byte).length ∧ 4 ≤ 4)
      ∧ (({ frameAt .idle 0 13 0 with lenpol := .bound } : State).lenpol = .bound
        ∧ ({ frameAt .idle 0 13 0 with lenpol := .bound } : State).bufLen
          = BitVec.ofNat 32 (12 + ([0x21] : List Byte).length))
      ∧ (3 < 12 + ([0x21] : List Byte).length ∧ 3 < 4)
      ∧ (frameAt .idle 0 13 0).lenpol = .strict
      ∧ ([0x21] : List Byte).length < (wordAt (flipBit (serialize 0x49454E44 [0x21]) 0 7) 0).toNat
      ∧ (wordAt (flipBit (serialize 0x49454E44 [0x21]) 3 0) 0).toNat < ([0x21] : List Byte).length := by
  refine ⟨by simp [Config.maxPayload], by decide, by decide, by decide, by decide, by decide, rfl, by decide +kernel,
    by decide +kernel⟩

end Sys2Proof.Tests
end

namespace Sys2Proof.Machine

/-! ### The published values of the checksum variant (R3, R123, R125) -/

/-- Single bytes from the two extreme registers, R125's corner cases and example. -/
theorem crcByte_published_values :
    crcByte 0xFFFFFFFF 0x00 = 0x2DFD1072 ∧ crcByte 0x00000000 0x00 = 0x00000000
      ∧ crcByte 0xFFFFFFFF 0x61 = 0x174841BC := by
  decide +kernel

/-- The nonzero entries of the table `T[i] = CrcByte(0, i)` that R123 lists. -/
theorem crcByte_table_entries :
    crcByte 0 0x01 = 0x77073096 ∧ crcByte 0 0x02 = 0xEE0E612C ∧ crcByte 0 0x80 = 0xEDB88320
      ∧ crcByte 0 0xFF = 0x2D02EF8D := by
  decide +kernel

/-- V-CRC-4: CRC, before the final XOR, after the check message "123456789". -/
theorem crcSeq_check_message :
    crcSeq 0xFFFFFFFF [0x31, 0x32, 0x33, 0x34, 0x35, 0x36, 0x37, 0x38, 0x39] = 0x340BC6D9 := by
  decide +kernel

/-- V-CRC-5d: CRC, before the final XOR, after the type bytes "RuSt". -/
theorem crcSeq_rust : crcSeq 0xFFFFFFFF [0x52, 0x75, 0x53, 0x74] = 0x2B7BF6C3 := by
  decide +kernel

/-- Settles O19: byte values and table entries by running R120's bits, the two checksums by R122's final XOR on the
register values the spec's vectors give. -/
theorem crcValuesOfTheVariant : Obligations.CrcValuesOfTheVariant := by
  unfold Obligations.CrcValuesOfTheVariant
  obtain ⟨hOnesZero, hZeroZero, hOnesA⟩ := crcByte_published_values
  obtain ⟨hT01, hT02, hT80, hTFF⟩ := crcByte_table_entries
  have hCheck : crc32 [0x31, 0x32, 0x33, 0x34, 0x35, 0x36, 0x37, 0x38, 0x39] = 0xCBF43926 := by
    rw [crc32, crcSeq_check_message]
    decide
  have hRust : crc32 [0x52, 0x75, 0x53, 0x74] = 0xD484093C := by
    rw [crc32, crcSeq_rust]
    decide
  exact ⟨hOnesZero, hZeroZero, hOnesA, hCheck, hRust, hT01, hT02, hT80, hTFF⟩

end Sys2Proof.Machine


namespace Sys2Proof.Machine

/-! ### Runs: an invariant of every transaction is one of every run (R56) -/

theorem runTxns_cons {x : Txn} {xs : List Txn} {s u : State} (h : runTxns (x :: xs) s = .next u) :
    ∃ t, transact x s = .next t ∧ runTxns xs t = .next u := by
  unfold runTxns at h
  cases hx : transact x s with
  | next t => exact ⟨t, rfl, by simpa [hx] using h⟩
  | fault r => exact nomatch r
  | refused r => simp [hx] at h

/-- What every transaction of a list keeps, the run of the list keeps. -/
theorem runTxns_keeps {P : State → Prop} {xs : List Txn} {s u : State}
    (hstep : ∀ x ∈ xs, ∀ a b, P a → transact x a = .next b → P b) (hs : P s) (h : runTxns xs s = .next u) : P u := by
  induction xs generalizing s with
  | nil =>
    cases h
    exact hs
  | cons x xs ih =>
    obtain ⟨t, hx, hxs⟩ := runTxns_cons h
    exact ih (fun y hy => hstep y (List.mem_cons_of_mem x hy)) (hstep x List.mem_cons_self s t hs hx) hxs

/-! ### What a command leaves alone (R22, R24, R25, R151) -/

/-- The operand registers and the host's side are as they were. -/
abbrev OperandsKept (s t : State) : Prop :=
  t.data = s.data ∧ t.lenpol = s.lenpol ∧ t.bufLen = s.bufLen ∧ t.pending = s.pending ∧ t.observed = s.observed

theorem OperandsKept.trans {s t u : State} (hst : OperandsKept s t) (htu : OperandsKept t u) : OperandsKept s u := by
  obtain ⟨hd, hl, hb, hp, ho⟩ := hst
  obtain ⟨hd', hl', hb', hp', ho'⟩ := htu
  exact ⟨hd'.trans hd, hl'.trans hl, hb'.trans hb, hp'.trans hp, ho'.trans ho⟩

/-- The frame engine is as it was, with the two registers an active frame reads. -/
structure FrameKept (s t : State) : Prop where
  phase : t.phase = s.phase
  fresult : t.fresult = s.fresult
  pos : t.pos = s.pos
  acc : t.acc = s.acc
  whileActive : active s.phase = true → t.bufLen = s.bufLen ∧ t.plen = s.plen

theorem FrameKept.frameInv {s t : State} (hk : FrameKept s t) (hi : FrameInv s) : FrameInv t :=
  FrameInv_congr hk.phase hk.fresult hk.pos hk.whileActive hi

theorem FrameKept.refl (s : State) : FrameKept s s := ⟨rfl, rfl, rfl, rfl, fun _ => ⟨rfl, rfl⟩⟩

theorem frameKept_finishOk (s : State) : FrameKept s (finishOk s) := ⟨rfl, rfl, rfl, rfl, fun _ => ⟨rfl, rfl⟩⟩

theorem frameKept_raiseCode (c : ResultCode) (s : State) : FrameKept s (raiseCode c s) :=
  ⟨rfl, rfl, rfl, rfl, fun _ => ⟨rfl, rfl⟩⟩

theorem frameKept_writeData (v : Word) (s : State) : FrameKept s (writeData v s) :=
  ⟨rfl, rfl, rfl, rfl, fun _ => ⟨rfl, rfl⟩⟩

theorem frameKept_writeCtrl (v : Word) (s : State) : FrameKept s (writeCtrl v s) :=
  ⟨by simp, by simp, by simp, by simp, by simp⟩

/-- A BUF_LEN write is ignored while a frame is active, so it too keeps what the frame engine reads (R55). -/
theorem frameKept_writeBufLen (v : Word) (s : State) : FrameKept s (writeBufLen v s) :=
  ⟨by simp, by simp, by simp, by simp, fun ha => by simp [ha]⟩

/-- A standalone command keeps the frame engine as soon as its body keeps PHASE, FRESULT, POS and ACC, since the body
runs only while no frame is active (R75). -/
theorem standalone_keeps {body : State → Host.Outcome State Fault Refusal} {s : State}
    (hb : ∃ t, body s = .next t ∧ OperandsKept s t
      ∧ t.phase = s.phase ∧ t.fresult = s.fresult ∧ t.pos = s.pos ∧ t.acc = s.acc) :
    ∃ t, standalone body s = .next t ∧ OperandsKept s t ∧ FrameKept s t := by
  cases ha : active s.phase with
  | true => exact ⟨_, standalone_of_active ha, ⟨rfl, rfl, rfl, rfl, rfl⟩, frameKept_raiseCode _ s⟩
  | false =>
    obtain ⟨t, ht, ho, hphase, hfresult, hpos, hacc⟩ := hb
    exact ⟨t, (standalone_of_inactive ha).trans ht, ho, hphase, hfresult, hpos, hacc, by simp [ha]⟩

theorem finishWith_keeps (r : State × Option ResultCode) :
    ∃ t, finishWith r = .next t ∧ OperandsKept r.1 t ∧ FrameKept r.1 t := by
  obtain ⟨s, _ | c⟩ := r
  · exact ⟨_, finishWith_none s, ⟨rfl, rfl, rfl, rfl, rfl⟩, frameKept_finishOk s⟩
  · exact ⟨_, finishWith_some s c, ⟨rfl, rfl, rfl, rfl, rfl⟩, frameKept_raiseCode c s⟩

theorem frameSteps_operandsKept (bs : List Byte) (s : State) : OperandsKept s (frameSteps bs s).1 := by
  obtain ⟨hd, hl, hb, -, -, hp, ho⟩ := frameSteps_frame bs s
  exact ⟨hd, hl, hb, hp, ho⟩

theorem frameSteps_singleton (b : Byte) (s : State) : frameSteps [b] s = frameStep b s := by
  rcases hr : frameStep b s with ⟨t, _ | c⟩
  · exact frameSteps_cons_none hr
  · exact frameSteps_cons_some hr

/-- The FRAME commands (R151). -/
def isFrameCommand : Instr → Bool
  | .frameStart | .frameByte _ | .frameWord | .frameAbort => true
  | .nop | .crcInit | .crcByte _ | .crcWord | .crcCheck | .typeBytes | .typeText _ | .lenParse | .clrErr => false

/-- A command that is no FRAME command completes and keeps the operands and the frame engine (R151). -/
theorem exec_keeps_of_not_frame {i : Instr} (s : State) (hi : isFrameCommand i = false) :
    ∃ t, exec i s = .next t ∧ OperandsKept s t ∧ FrameKept s t := by
  cases i with
  | frameStart | frameByte _ | frameWord | frameAbort => simp [isFrameCommand] at hi
  | nop | clrErr => exact ⟨_, rfl, ⟨rfl, rfl, rfl, rfl, rfl⟩, rfl, rfl, rfl, rfl, fun _ => ⟨rfl, rfl⟩⟩
  | crcInit =>
    rw [exec_crcInit]
    exact standalone_keeps ⟨_, rfl, ⟨rfl, rfl, rfl, rfl, rfl⟩, rfl, rfl, rfl, rfl⟩
  | crcByte b =>
    rw [exec_crcByte]
    exact standalone_keeps ⟨_, rfl, ⟨rfl, rfl, rfl, rfl, rfl⟩, rfl, rfl, rfl, rfl⟩
  | crcWord =>
    rw [exec_crcWord]
    exact standalone_keeps ⟨_, rfl, ⟨rfl, rfl, rfl, rfl, rfl⟩, rfl, rfl, rfl, rfl⟩
  | typeBytes =>
    rw [exec_typeBytes]
    exact standalone_keeps ⟨_, rfl, ⟨rfl, rfl, rfl, rfl, rfl⟩, rfl, rfl, rfl, rfl⟩
  | crcCheck =>
    rw [exec_crcCheck]
    apply standalone_keeps
    split_ifs <;> exact ⟨_, rfl, ⟨rfl, rfl, rfl, rfl, rfl⟩, rfl, rfl, rfl, rfl⟩
  | typeText n =>
    rw [exec_typeText]
    apply standalone_keeps
    split_ifs <;> exact ⟨_, rfl, ⟨rfl, rfl, rfl, rfl, rfl⟩, rfl, rfl, rfl, rfl⟩
  | lenParse =>
    rw [exec_lenParse]
    apply standalone_keeps
    split_ifs <;> exact ⟨_, rfl, ⟨rfl, rfl, rfl, rfl, rfl⟩, rfl, rfl, rfl, rfl⟩

/-- Frame bytes and the end of the command together (R154, R155). -/
theorem finishWith_frameSteps_operandsKept (bs : List Byte) (s : State) :
    ∃ t, finishWith (frameSteps bs s) = .next t ∧ OperandsKept s t := by
  obtain ⟨t, ht, ho, -⟩ := finishWith_keeps (frameSteps bs s)
  exact ⟨t, ht, (frameSteps_operandsKept bs s).trans ho⟩

theorem exec_operandsKept (i : Instr) (s : State) : ∃ t, exec i s = .next t ∧ OperandsKept s t := by
  cases hi : isFrameCommand i with
  | false =>
    obtain ⟨t, ht, ho, -⟩ := exec_keeps_of_not_frame s hi
    exact ⟨t, ht, ho⟩
  | true =>
    cases i with
    | nop | crcInit | crcByte _ | crcWord | crcCheck | typeBytes | typeText _ | lenParse | clrErr =>
      simp [isFrameCommand] at hi
    | frameStart =>
      rw [exec_frameStart]
      split_ifs <;> exact ⟨_, rfl, rfl, rfl, rfl, rfl, rfl⟩
    | frameByte b =>
      rw [exec_frameByte, ← frameSteps_singleton]
      split_ifs
      · exact finishWith_frameSteps_operandsKept [b] s
      · exact ⟨_, rfl, rfl, rfl, rfl, rfl, rfl⟩
    | frameWord =>
      rw [exec_frameWord]
      split_ifs
      · exact ⟨_, rfl, rfl, rfl, rfl, rfl, rfl⟩
      · exact finishWith_frameSteps_operandsKept (streamBytes s.data) s
    | frameAbort => exact ⟨_, rfl, rfl, rfl, rfl, rfl, rfl⟩

/-- Settles O46: by cases on the command, the standalone ones by the phase check, the FRAME ones by their bytes. -/
theorem noCommandWritesTheOperandRegisters : Obligations.NoCommandWritesTheOperandRegisters :=
  exec_operandsKept

theorem exec_bufLen {i : Instr} {s t : State} (h : exec i s = .next t) : t.bufLen = s.bufLen := by
  obtain ⟨u, hu, -, -, hb, -⟩ := exec_operandsKept i s
  cases h.symm.trans hu
  exact hb

/-! ### What a command and a transaction do to the frame engine -/

/-- Everything a command can do to the frame engine of a state that meets the invariant: nothing, a start, an abort, or
consuming bytes that the frame still has room for. -/
theorem exec_frame_cases {i : Instr} {s t : State} (hi : FrameInv s) (h : exec i s = .next t) :
    FrameKept s t ∨ i = .frameStart ∨ (t.phase = .idle ∧ t.fresult = .ok ∧ t.pos = s.pos)
      ∨ (active s.phase = true ∧ ∃ bs : List Byte, s.pos.toNat + bs.length ≤ s.bufLen.toNat
          ∧ FrameKept (frameSteps bs s).1 t) := by
  cases hf : isFrameCommand i with
  | false =>
    obtain ⟨u, hu, -, hk⟩ := exec_keeps_of_not_frame s hf
    cases h.symm.trans hu
    exact .inl hk
  | true =>
    cases i with
    | nop | crcInit | crcByte _ | crcWord | crcCheck | typeBytes | typeText _ | lenParse | clrErr =>
      simp [isFrameCommand] at hf
    | frameStart => exact .inr (.inl rfl)
    | frameAbort =>
      cases h
      exact .inr (.inr (.inl ⟨rfl, rfl, rfl⟩))
    | frameByte b =>
      rw [exec_frameByte, ← frameSteps_singleton] at h
      split_ifs at h with ha
      · obtain ⟨-, ⟨hroom, -⟩, -⟩ := hi
        obtain ⟨hlt, -⟩ := hroom ha
        obtain ⟨u, hu, -, hk⟩ := finishWith_keeps (frameSteps [b] s)
        cases h.symm.trans hu
        exact .inr (.inr (.inr ⟨ha, [b], hlt, hk⟩))
      · cases h
        exact .inl (frameKept_raiseCode _ s)
    | frameWord =>
      rw [exec_frameWord] at h
      split_ifs at h with ha
      · cases h
        exact .inl (frameKept_raiseCode _ s)
      · rw [not_or, Bool.not_eq_false, not_lt] at ha
        obtain ⟨ha, hroom⟩ := ha
        obtain ⟨u, hu, -, hk⟩ := finishWith_keeps (frameSteps (streamBytes s.data) s)
        cases h.symm.trans hu
        exact .inr (.inr (.inr ⟨ha, streamBytes s.data, by rw [length_streamBytes]; omega, hk⟩))

/-- Everything a transaction can do: a reset, a BUF_LEN write, a legal command, or one that leaves the frame engine and
BUF_LEN alone. -/
theorem transact_frame_cases {x : Txn} {s t : State} (h : transact x s = .next t) :
    (x = .reset ∧ t = resetBlock s)
      ∨ (∃ off v, x = .write off v ∧ off &&& 0x3C = 0x10 ∧ t = writeBufLen v s)
      ∨ (∃ off w i, x = .write off w ∧ off &&& 0x3C = 0x00 ∧ decode w = .ok i ∧ exec i s = .next t)
      ∨ ((∀ off v, x = .write off v → off &&& 0x3C ≠ 0x10) ∧ FrameKept s t ∧ t.bufLen = s.bufLen) := by
  cases x with
  | read off =>
    cases h
    exact .inr (.inr (.inr ⟨by simp, ⟨rfl, rfl, rfl, rfl, fun _ => ⟨rfl, rfl⟩⟩, rfl⟩))
  | reset =>
    cases h
    exact .inl ⟨rfl, rfl⟩
  | write off v =>
    have hoff {c : BitVec 6} (ho : off &&& 0x3C = c) (hc : c ≠ 0x10) (off' : BitVec 6) (v' : Word)
        (heq : Txn.write off v = .write off' v') : off' &&& 0x3C ≠ 0x10 := by
      cases heq
      exact ho.trans_ne hc
    obtain ⟨ho, hc⟩ | ⟨ho, rfl⟩ | ⟨ho, rfl⟩ | ⟨ho, rfl⟩ | ⟨ho, rfl⟩ := write_cases h
    · obtain ⟨-, rfl⟩ | ⟨i, hd, he⟩ := issueCommand_cases hc
      · exact .inr (.inr (.inr ⟨hoff ho (by decide), frameKept_raiseCode _ s, rfl⟩))
      · exact .inr (.inr (.inl ⟨off, v, i, rfl, ho, hd, he⟩))
    · exact .inr (.inr (.inr ⟨hoff ho (by decide), frameKept_writeData v s, rfl⟩))
    · exact .inr (.inr (.inr ⟨hoff ho (by decide), frameKept_writeCtrl v s, writeCtrl_bufLen v s⟩))
    · exact .inr (.inl ⟨off, v, rfl, ho, rfl⟩)
    · have hne : off &&& 0x3C ≠ 0x10 := fun heq => ho (by rw [heq]; decide)
      exact .inr (.inr (.inr ⟨hoff rfl hne, .refl t, rfl⟩))

/-! ### The invariant (R39, R26, R158) -/

/-- With no frame active the invariant speaks of the verdict alone. -/
theorem FrameInv_of_inactive {s : State} (ha : active s.phase = false) (hv : VerdictLegal s) : FrameInv s := by
  refine ⟨hv, ?_, ?_⟩
  · obtain h | h | h := (inactive_iff s.phase).1 ha <;> simp [FrameBounded, h, active]
  · obtain h | h | h := (inactive_iff s.phase).1 ha <;> simp [PositionInField, h]

theorem FrameInv_of_idle {s : State} (hp : s.phase = .idle) (hf : s.fresult = .ok) : FrameInv s :=
  FrameInv_of_inactive (by simp [hp, active]) (by simp [VerdictLegal, hp, hf])

/-- Settles O52: IDLE with no verdict meets the invariant whatever the other registers hold. -/
theorem resetMeetsFrameInv : Obligations.ResetMeetsFrameInv :=
  FrameInv_of_idle rfl rfl

/-- FRAME_START brings any state into the invariant, at POS 0 (R153). -/
theorem exec_frameStart_inv {s t : State} (h : exec .frameStart s = .next t) : FrameInv t ∧ t.pos = 0 := by
  rw [exec_frameStart] at h
  split_ifs at h with hshort
  · cases h
    exact ⟨FrameInv_of_inactive rfl (by simp [VerdictLegal]), rfl⟩
  · cases h
    refine ⟨⟨by simp [VerdictLegal], ?_, by simp [PositionInField]⟩, rfl⟩
    simp [FrameBounded]
    omega

theorem exec_keeps_FrameInv {i : Instr} {s t : State} (hi : FrameInv s) (h : exec i s = .next t) : FrameInv t := by
  obtain hk | rfl | ⟨hp, hf, -⟩ | ⟨ha, bs, hroom, hk⟩ := exec_frame_cases hi h
  · exact hk.frameInv hi
  · exact (exec_frameStart_inv h).1
  · exact FrameInv_of_idle hp hf
  · exact hk.frameInv (frameSteps_inv bs s hi ha hroom).1

theorem transact_keeps_FrameInv {x : Txn} {s t : State} (hi : FrameInv s) (h : transact x s = .next t) :
    FrameInv t := by
  obtain ⟨-, rfl⟩ | ⟨_, v, -, -, rfl⟩ | ⟨_, _, i, -, -, -, he⟩ | ⟨-, hk, -⟩ := transact_frame_cases h
  · exact FrameInv_of_idle rfl rfl
  · exact (frameKept_writeBufLen v s).frameInv hi
  · exact exec_keeps_FrameInv hi he
  · exact hk.frameInv hi

/-- Settles O53: a step with a transaction pending carries it out, and taking it off the list is nothing to the
invariant. -/
theorem everyStepKeepsFrameInv : Obligations.EveryStepKeepsFrameInv := by
  unfold Obligations.EveryStepKeepsFrameInv
  intro s t hi h
  obtain ⟨-, rfl⟩ | ⟨x, rest, -, hx⟩ := step_cases h
  · exact hi
  · have hrest : FrameInv { s with pending := rest } := hi
    exact transact_keeps_FrameInv hrest hx

theorem Reachable.frameInv {s : State} (h : Reachable s) : FrameInv s := by
  obtain ⟨xs, hxs⟩ := h
  exact runTxns_keeps (fun _ _ _ _ => transact_keeps_FrameInv) resetMeetsFrameInv hxs

theorem resultBits_le (c : ResultCode) : (resultBits c).toNat ≤ 7 := by
  cases c <;> decide

theorem phaseBits_le (p : Phase) : (phaseBits p).toNat ≤ 6 := by
  cases p <;> decide

/-- R39's bound on FRESULT's number is its list of four verdicts (R201, R204). -/
theorem VerdictLegal.resultBits_le {s : State} (h : VerdictLegal s) : (resultBits s.fresult).toNat ≤ 3 := by
  obtain ⟨h | h | h | h, -⟩ := h <;> rw [h] <;> decide

/-- Settles O54: the invariant holds at reset and every transaction keeps it. -/
theorem reachableStatesMeetTheInvariants : Obligations.ReachableStatesMeetTheInvariants := by
  unfold Obligations.ReachableStatesMeetTheInvariants
  intro s hs
  obtain ⟨hv, hb, -⟩ := hs.frameInv
  exact ⟨hv, hb, resultBits_le s.result, phaseBits_le s.phase, VerdictLegal.resultBits_le hv⟩

/-! ### Reset (R38, R221) -/

theorem statusWord_resetBlock (s : State) : statusWord (resetBlock s) = 0 := by
  rw [statusWord, resetBlock_fresult, resetBlock_phase, resetBlock_err, resetBlock_result]
  decide

theorem typeFlags_resetBlock (s : State) : typeFlags (resetBlock s).chunkType = 0 := by
  rw [resetBlock_chunkType]
  decide

theorem crcOut_resetBlock (s : State) : crcOut (resetBlock s) = 0 := by
  rw [crcOut, resetBlock_crc]
  decide

/-- Settles O11: the record is `resetBlock`'s by definition; the three derived reads are computed from it. -/
theorem resetSetsEveryRegister : Obligations.ResetSetsEveryRegister := by
  unfold Obligations.ResetSetsEveryRegister
  intro s
  exact ⟨resetBlock s, rfl, rfl, crcOut_resetBlock s, typeFlags_resetBlock s, statusWord_resetBlock s⟩

/-! ### POS and BUF_LEN (R34; log entry 7) -/

/-- Refutes O56: after one byte of a frame of 12 an abort keeps POS, and with no frame active BUF_LEN takes the smaller
value, so a run from reset ends with POS 1 and BUF_LEN 0 (R55, R156). -/
theorem not_posNeverExceedsBufLen : ¬ Obligations.PosNeverExceedsBufLen := by
  unfold Obligations.PosNeverExceedsBufLen
  intro h
  have hreach : Reachable { State.reset with pos := 1 } :=
    ⟨[.write 0x10 12, .write 0x00 0x30000000, .write 0x00 0x31000000, .write 0x00 0x33000000, .write 0x10 0], rfl⟩
  exact absurd (h { State.reset with pos := 1 } hreach) (by decide)

/-- POS is at most L, and an active frame's BUF_LEN is too. -/
abbrev PosWithin (L : Nat) (s : State) : Prop :=
  s.pos.toNat ≤ L ∧ (active s.phase = true → s.bufLen.toNat ≤ L)

theorem FrameKept.posWithin {L : Nat} {s t : State} (hk : FrameKept s t) (hw : PosWithin L s) : PosWithin L t := by
  obtain ⟨hpos, hbuf⟩ := hw
  refine ⟨by rwa [hk.pos], fun ha => ?_⟩
  rw [hk.phase] at ha
  rw [(hk.whileActive ha).1]
  exact hbuf ha

/-- Frame bytes the frame has room for leave POS at most BUF_LEN, whether or not they fail (R152, R158). -/
theorem frameSteps_pos_le {bs : List Byte} {s : State} (hi : FrameInv s) (ha : active s.phase = true)
    (hroom : s.pos.toNat + bs.length ≤ s.bufLen.toNat) : (frameSteps bs s).1.pos.toNat ≤ s.bufLen.toNat := by
  obtain ⟨-, hok, herr⟩ := frameSteps_inv bs s hi ha hroom
  cases hr : (frameSteps bs s).2 with
  | none => rwa [(hok hr).1]
  | some c =>
    obtain ⟨-, ⟨hframe, -⟩, -⟩ := hi
    obtain ⟨-, h12⟩ := hframe ha
    obtain ⟨-, -, ⟨-, hp⟩ | ⟨-, hp⟩⟩ := herr c hr <;> omega

/-- Every command keeps POS within L; a FRAME_START must find BUF_LEN within L. -/
theorem exec_keeps_posWithin {L : Nat} {i : Instr} {s t : State} (hi : FrameInv s) (hw : PosWithin L s)
    (hstart : i = .frameStart → s.bufLen.toNat ≤ L) (h : exec i s = .next t) : PosWithin L t := by
  have hbuf := exec_bufLen h
  obtain hk | rfl | ⟨hp, -, hpos⟩ | ⟨ha, bs, hroom, hk⟩ := exec_frame_cases hi h
  · exact hk.posWithin hw
  · obtain ⟨-, hpos⟩ := exec_frameStart_inv h
    exact ⟨by simp [hpos], fun _ => by rw [hbuf]; exact hstart rfl⟩
  · exact ⟨by rw [hpos]; exact hw.1, by simp [hp, active]⟩
  · have hL := hw.2 ha
    have hle := frameSteps_pos_le hi ha hroom
    exact ⟨by rw [hk.pos]; omega, fun _ => by rwa [hbuf]⟩

/-- FRAME_START has one command word (R71, R72). -/
theorem eq_of_decode_frameStart {w : Word} (h : decode w = .ok .frameStart) : w = 0x30000000 := by
  obtain ⟨hop, himm⟩ : opcodeField w = 0x30 ∧ immField w = 0 := by simpa using decodeFields_cases h
  rw [← fields_append w, hop, himm]
  rfl

/-- Until the next FRAME_START no transaction takes POS above the bound of the frame (R34, R158, R226). -/
theorem transact_keeps_posWithin {L : Nat} {x : Txn} {s t : State} (hi : FrameInv s) (hw : PosWithin L s)
    (hx : ∀ off, off &&& 0x3C = 0x00 → x ≠ .write off 0x30000000) (h : transact x s = .next t) : PosWithin L t := by
  obtain ⟨-, rfl⟩ | ⟨_, v, -, -, rfl⟩ | ⟨off, w, i, rfl, ho, hd, he⟩ | ⟨-, hk, -⟩ := transact_frame_cases h
  · simp [PosWithin, active]
  · exact (frameKept_writeBufLen v s).posWithin hw
  · refine exec_keeps_posWithin hi hw ?_ he
    rintro rfl
    exact absurd (by rw [eq_of_decode_frameStart hd]) (hx off ho)
  · exact hk.posWithin hw

/-- A transaction from POS at most BUF_LEN exceeds it exactly by a smaller BUF_LEN that R54 stores. -/
theorem transact_pos_le_bufLen_iff {x : Txn} {s t : State} (hi : FrameInv s) (hle : s.pos.toNat ≤ s.bufLen.toNat)
    (h : transact x s = .next t) :
    t.pos.toNat ≤ t.bufLen.toNat ↔
      ¬ ∃ off v, x = .write off v ∧ off &&& 0x3C = 0x10 ∧ active s.phase = false ∧ v.toNat < s.pos.toNat := by
  obtain ⟨rfl, rfl⟩ | ⟨off, v, rfl, ho, rfl⟩ | ⟨off, w, i, rfl, ho, -, he⟩ | ⟨hx, hk, hbuf⟩ := transact_frame_cases h
  · simp
  · rw [writeBufLen_pos, writeBufLen_bufLen]
    cases ha : active s.phase with
    | true => simpa using hle
    | false =>
      rw [← not_lt]
      refine not_congr ⟨fun hlt => ⟨off, v, rfl, ho, rfl, hlt⟩, ?_⟩
      rintro ⟨_, _, ⟨rfl, rfl⟩, -, -, hlt⟩
      exact hlt
  · have hw : PosWithin s.bufLen.toNat t := exec_keeps_posWithin hi ⟨hle, fun _ => le_rfl⟩ (fun _ => le_rfl) he
    rw [exec_bufLen he]
    refine iff_of_true hw.1 ?_
    rintro ⟨_, _, ⟨rfl, rfl⟩, hbuf, -⟩
    exact absurd (ho.symm.trans hbuf) (by decide)
  · rw [hk.pos, hbuf]
    refine iff_of_true hle ?_
    rintro ⟨off, v, hxv, ho, -⟩
    exact hx off v hxv ho

/-- Settles O60: the second clause by the invariant that POS, and an active frame's BUF_LEN, are at most the BUF_LEN of
the FRAME_START. -/
theorem posStaysWithinBufLenButForASmallerBufLen : Obligations.PosStaysWithinBufLenButForASmallerBufLen := by
  unfold Obligations.PosStaysWithinBufLenButForASmallerBufLen
  refine ⟨fun x s u => transact_pos_le_bufLen_iff, fun xs s t u hstart hxs hrun => ?_⟩
  obtain ⟨hi, hpos⟩ := exec_frameStart_inv hstart
  have hw : PosWithin s.bufLen.toNat t := ⟨by simp [hpos], fun _ => by rw [exec_bufLen hstart]⟩
  have hkept : FrameInv u ∧ PosWithin s.bufLen.toNat u := by
    refine runTxns_keeps (P := fun a => FrameInv a ∧ PosWithin s.bufLen.toNat a) ?_ ⟨hi, hw⟩ hrun
    rintro x hx a b ⟨hia, hwa⟩ hab
    have hnoStart : ∀ off, off &&& 0x3C = 0x00 → x ≠ .write off 0x30000000 := by
      rintro off ho rfl
      exact hxs off ho hx
    exact ⟨transact_keeps_FrameInv hia hab, transact_keeps_posWithin hia hwa hnoStart hab⟩
  obtain ⟨-, hle, -⟩ := hkept
  exact hle

end Sys2Proof.Machine


namespace Sys2Proof.Machine

/-! ### What no command reads: RESULT, ERR and the host's side (R200, R202, R230) -/

/-- From `s`, whatever RESULT, ERR and the host's side hold, `f` completes with one and the same state but for these:
RESULT is `f`'s own, ERR depends on the ERR before alone, and the host's side is kept. -/
def IgnoresSide (f : State → Host.Outcome State Fault Refusal) (s : State) : Prop :=
  ∃ (t : State) (newErr : Bool → Bool), ∀ (r : ResultCode) (e : Bool) (p : List Txn) (o : List Word),
    f { s with result := r, err := e, pending := p, observed := o }
      = .next { t with err := newErr e, pending := p, observed := o }

theorem ignoresSide_raiseCode (c : ResultCode) (s : State) : IgnoresSide (fun s => .next (raiseCode c s)) s :=
  ⟨raiseCode c s, fun _ => true, fun _ _ _ _ => rfl⟩

theorem ignoresSide_ite {c : State → Prop} [DecidablePred c] {f g : State → Host.Outcome State Fault Refusal} {s : State}
    (hc : ∀ r e p o, c { s with result := r, err := e, pending := p, observed := o } ↔ c s)
    (hf : IgnoresSide f s) (hg : IgnoresSide g s) : IgnoresSide (fun s => if c s then f s else g s) s := by
  by_cases h : c s
  · obtain ⟨t, newErr, hf⟩ := hf
    exact ⟨t, newErr, fun r e p o => (if_pos ((hc r e p o).2 h)).trans (hf r e p o)⟩
  · obtain ⟨t, newErr, hg⟩ := hg
    exact ⟨t, newErr, fun r e p o => (if_neg (mt (hc r e p o).1 h)).trans (hg r e p o)⟩

theorem ignoresSide_standalone {body : State → Host.Outcome State Fault Refusal} {s : State}
    (hb : IgnoresSide body s) : IgnoresSide (standalone body) s :=
  ignoresSide_ite (fun _ _ _ _ => Iff.rfl) (ignoresSide_raiseCode _ s) hb

/-- The bytes may be those of DATA, which is an operand (R155). -/
theorem ignoresSide_finishWith_frameSteps (bytesOf : Word → List Byte) (s : State) :
    IgnoresSide (fun s => finishWith (frameSteps (bytesOf s.data) s)) s := by
  have hw r e p o := frameSteps_withSide (bytesOf s.data) s.data r e p o s
  rcases hr : frameSteps (bytesOf s.data) s with ⟨t, _ | c⟩ <;> simp only [hr] at hw
  · exact ⟨finishOk { t with data := s.data }, id, fun r e p o => congrArg finishWith (hw r e p o)⟩
  · exact ⟨raiseCode c { t with data := s.data }, fun _ => true, fun r e p o => congrArg finishWith (hw r e p o)⟩

theorem exec_ignoresSide (i : Instr) (s : State) : IgnoresSide (exec i) s := by
  cases i with
  | nop => exact ⟨finishOk s, id, fun _ _ _ _ => rfl⟩
  | clrErr => exact ⟨finishOk s, fun _ => false, fun _ _ _ _ => rfl⟩
  | frameAbort => exact ⟨finishOk { s with phase := .idle, fresult := .ok }, id, fun _ _ _ _ => rfl⟩
  | crcInit =>
    exact ignoresSide_standalone ⟨finishOk { s with crc := 0xFFFFFFFF }, id, fun _ _ _ _ => rfl⟩
  | crcByte b =>
    exact ignoresSide_standalone ⟨finishOk { s with crc := crcByte s.crc b }, id, fun _ _ _ _ => rfl⟩
  | crcWord =>
    exact ignoresSide_standalone ⟨finishOk { s with crc := crcSeq s.crc (streamBytes s.data) }, id, fun _ _ _ _ => rfl⟩
  | typeBytes =>
    exact ignoresSide_standalone ⟨finishOk { s with chunkType := s.data }, id, fun _ _ _ _ => rfl⟩
  | crcCheck =>
    rw [funext exec_crcCheck]
    refine ignoresSide_standalone (ignoresSide_ite (fun _ _ _ _ => Iff.rfl) ?_ ?_)
    · exact ⟨finishOk { s with scrc := s.data }, id, fun _ _ _ _ => rfl⟩
    · exact ⟨raiseCode .invalidCrc { s with scrc := s.data }, fun _ => true, fun _ _ _ _ => rfl⟩
  | typeText n =>
    rw [funext (exec_typeText n)]
    refine ignoresSide_standalone (ignoresSide_ite (fun _ _ _ _ => Iff.rfl) (ignoresSide_raiseCode _ s) ?_)
    refine ignoresSide_ite (fun _ _ _ _ => Iff.rfl) ?_ (ignoresSide_raiseCode _ s)
    exact ⟨finishOk { s with chunkType := s.data }, id, fun _ _ _ _ => rfl⟩
  | lenParse =>
    rw [funext exec_lenParse]
    refine ignoresSide_standalone (ignoresSide_ite (fun _ _ _ _ => Iff.rfl) (ignoresSide_raiseCode _ s) ?_)
    refine ignoresSide_ite (fun _ _ _ _ => Iff.rfl) ?_ ?_
    · exact ⟨raiseCode .invalidChunkLength { s with len := s.data }, fun _ => true, fun _ _ _ _ => rfl⟩
    · exact ⟨finishOk { s with len := s.data, plen := s.bufLen - 12 }, id, fun _ _ _ _ => rfl⟩
  | frameStart =>
    rw [funext exec_frameStart]
    refine ignoresSide_ite (fun _ _ _ _ => Iff.rfl) ?_ ?_
    · exact ⟨raiseCode .invalidInput { s with pos := 0, acc := 0, len := 0, plen := 0, scrc := 0, crc := 0xFFFFFFFF,
                                              phase := .error, fresult := .invalidInput }, fun _ => true,
        fun _ _ _ _ => rfl⟩
    · exact ⟨finishOk { s with pos := 0, acc := 0, len := 0, plen := 0, scrc := 0, crc := 0xFFFFFFFF,
                               fresult := .ok, phase := .len }, id, fun _ _ _ _ => rfl⟩
  | frameByte b =>
    simp only [funext (exec_frameByte b), ← frameSteps_singleton]
    exact ignoresSide_ite (fun _ _ _ _ => Iff.rfl) (ignoresSide_finishWith_frameSteps (fun _ => [b]) s)
      (ignoresSide_raiseCode _ s)
  | frameWord =>
    rw [funext exec_frameWord]
    exact ignoresSide_ite (fun _ _ _ _ => Iff.rfl) (ignoresSide_raiseCode _ s)
      (ignoresSide_finishWith_frameSteps streamBytes s)

/-! ### Transactions and steps (R56, R57; log entries 1 and 2) -/

/-- A command completes with the same state whatever is pending, and keeps what is pending. -/
theorem exec_withPending (i : Instr) (s : State) :
    ∃ t : State, ∀ p, exec i { s with pending := p } = .next { t with pending := p } := by
  obtain ⟨t, newErr, h⟩ := exec_ignoresSide i s
  exact ⟨{ t with err := newErr s.err, observed := s.observed }, fun p => h s.result s.err p s.observed⟩

theorem issueCommand_withPending (w : Word) (s : State) :
    ∃ t : State, ∀ p, issueCommand w { s with pending := p } = .next { t with pending := p } := by
  cases hd : decode w with
  | error _ => exact ⟨raiseCode .illegalCommand s, fun _ => issueCommand_of_error _ hd⟩
  | ok i =>
    obtain ⟨t, h⟩ := exec_withPending i s
    exact ⟨t, fun p => (issueCommand_of_ok _ hd).trans (h p)⟩

theorem writeCtrl_withPending (v : Word) (p : List Txn) (s : State) :
    writeCtrl v { s with pending := p } = { writeCtrl v s with pending := p } := by
  simp only [writeCtrl]
  split <;> rfl

theorem writeBufLen_withPending (v : Word) (p : List Txn) (s : State) :
    writeBufLen v { s with pending := p } = { writeBufLen v s with pending := p } := by
  simp only [writeBufLen]
  split <;> rfl

/-- A transaction completes with the same state whatever is pending after it, and keeps what is pending: the host alone
decides what it issues next (R230). -/
theorem transact_withPending (x : Txn) (s : State) :
    ∃ t : State, ∀ p, transact x { s with pending := p } = .next { t with pending := p } := by
  cases x with
  | read off => exact ⟨{ s with observed := s.observed ++ [busRead off s] }, fun _ => rfl⟩
  | reset => exact ⟨resetBlock s, fun _ => rfl⟩
  | write off v =>
    simp only [transact_write]
    cases portAt off with
    | cmd => exact issueCommand_withPending v s
    | data => exact ⟨writeData v s, fun _ => rfl⟩
    | ctrl => exact ⟨writeCtrl v s, fun p => congrArg _ (writeCtrl_withPending v p s)⟩
    | bufLen => exact ⟨writeBufLen v s, fun p => congrArg _ (writeBufLen_withPending v p s)⟩
    | status | crc | crcOut | type | tflags | len | plen | scrc | pos | unmapped => exact ⟨s, fun _ => rfl⟩

theorem step_of_pending_nil {s : State} (h : s.pending = []) : step s = .next s := by
  simp only [step, takeTransaction, h]

theorem step_of_pending_cons {s : State} {x : Txn} {rest : List Txn} (h : s.pending = x :: rest) :
    step s = transact x { s with pending := rest } := by
  simp only [step, takeTransaction, h]

theorem run_succ_of_step {s t : State} (k : Nat) (h : step s = .next t) :
    Host.Core.run Sys2Proof.core (k + 1) s = Host.Core.run Sys2Proof.core k t := by
  have hcore : Sys2Proof.core.step s = .next t := h
  simp only [Host.Core.run, hcore]

theorem runTxns_cons_of_transact {x : Txn} {s t : State} (xs : List Txn) (h : transact x s = .next t) :
    runTxns (x :: xs) s = runTxns xs t := by
  simp only [runTxns, h]

/-- Settles O7: by induction on the transactions; a step carries out the first one with the others pending, which is the
transaction with only `rest` pending but for that list. -/
theorem stepsCarryOutTransactionsInOrder : Obligations.StepsCarryOutTransactionsInOrder := by
  unfold Obligations.StepsCarryOutTransactionsInOrder
  intro ts rest s hp
  induction ts generalizing s with
  | nil =>
    obtain rfl : rest = s.pending := hp.symm
    rfl
  | cons x ts ih =>
    obtain ⟨t, ht⟩ := transact_withPending x s
    have hstep : step s = .next { t with pending := ts ++ rest } := (step_of_pending_cons hp).trans (ht _)
    rw [List.length_cons, run_succ_of_step _ hstep, ih _ rfl, runTxns_cons_of_transact ts (ht rest)]

/-- Settles O8: with a transaction pending the step is that transaction, which completes. -/
theorem everyStepAnswersANextState : Obligations.EveryStepAnswersANextState := by
  unfold Obligations.EveryStepAnswersANextState
  refine ⟨fun s => ?_, fun s => step_of_pending_nil⟩
  cases hp : s.pending with
  | nil => exact ⟨s, step_of_pending_nil hp⟩
  | cons x rest =>
    obtain ⟨t, ht⟩ := transact_withPending x s
    exact ⟨_, (step_of_pending_cons hp).trans (ht rest)⟩

/-! ### Reads (R23, R24, R53) -/

/-- A read depends on its offset's slot alone (R52, R53). -/
theorem busRead_eq {off word : BitVec 6} (s : State) (h : off &&& 0x3C = word) :
    busRead off s = readPort s (portAt word) := by
  rw [busRead, portAt_eq h]

/-- Bits put side by side: the left ones weigh `2 ^ n`. -/
theorem toNat_append_eq_add {m n : Nat} (x : BitVec m) (y : BitVec n) :
    (x ++ y).toNat = x.toNat * 2 ^ n + y.toNat := by
  rw [BitVec.toNat_append, ← Nat.shiftLeft_add_eq_or_of_lt y.isLt, Nat.shiftLeft_eq]

/-- STATUS as its fields at bits 12, 8, 4 and 0 (R23). -/
theorem toNat_statusWord (s : State) :
    (statusWord s).toNat = 4096 * (resultBits s.fresult).toNat + 256 * (phaseBits s.phase).toNat
      + (if s.err then 16 else 0) + (resultBits s.result).toNat := by
  have herr : 16 * (BitVec.ofBool s.err).toNat = if s.err then 16 else 0 := by cases s.err <;> rfl
  rw [← herr]
  simp only [statusWord, toNat_append_eq_add, BitVec.toNat_ofNat]
  omega

theorem ctrlWord_eq (s : State) : ctrlWord s = if s.lenpol = .bound then 1 else 0 := by
  rw [ctrlWord]
  cases s.lenpol <;> decide

/-- Settles O9: an offset reads its slot, and STATUS is the sum of its fields' numbers. -/
theorem readReturnsTheSlotAndChangesNoRegister : Obligations.ReadReturnsTheSlotAndChangesNoRegister := by
  unfold Obligations.ReadReturnsTheSlotAndChangesNoRegister
  intro off s code phase
  have hcode (c : ResultCode) : (resultBits c).toNat = code c := by cases c <;> rfl
  have hphase (p : Phase) : (phaseBits p).toNat = phase p := by cases p <;> rfl
  refine ⟨rfl, rfl, busRead_eq s, busRead_eq s, fun h => ?_, fun h => ?_, busRead_eq s, busRead_eq s, busRead_eq s,
    busRead_eq s, busRead_eq s, busRead_eq s, busRead_eq s, busRead_eq s, busRead_eq s, ?_⟩
  · rw [← hcode, ← hcode, ← hphase, ← toNat_statusWord]
    exact congrArg BitVec.toNat (busRead_eq s h)
  · exact (busRead_eq s h).trans (ctrlWord_eq s)
  · rintro (h | h | h) <;> exact busRead_eq s h

/-! ### Writes (R54, R55) -/

/-- A write depends on its offset's slot alone (R52, R54). -/
theorem transact_write_eq {off word : BitVec 6} (v : Word) (s : State) (h : off &&& 0x3C = word) :
    transact (.write off v) s = writePort v s (portAt word) := by
  rw [transact_write, portAt_eq h]

theorem writeCtrl_of_active {s : State} (v : Word) (h : active s.phase = true) : writeCtrl v s = s := by
  simp [writeCtrl, h]

theorem writeCtrl_of_inactive {s : State} (v : Word) (h : active s.phase = false) :
    writeCtrl v s = { s with lenpol := policyOfWord v } := by
  simp [writeCtrl, h]

theorem writeBufLen_of_active {s : State} (v : Word) (h : active s.phase = true) : writeBufLen v s = s := by
  simp [writeBufLen, h]

theorem writeBufLen_of_inactive {s : State} (v : Word) (h : active s.phase = false) :
    writeBufLen v s = { s with bufLen := v } := by
  simp [writeBufLen, h]

/-- The slots a write does nothing to, whatever the phase (R54). -/
theorem writePort_ignored {p : Port} (v : Word) (s : State) (h : p ∉ [.cmd, .data, .ctrl, .bufLen]) :
    writePort v s p = .next s := by
  cases p with
  | cmd | data | ctrl | bufLen => simp at h
  | status | crc | crcOut | type | tflags | len | plen | scrc | pos | unmapped => rfl

theorem portAt_ignored {off : BitVec 6} (h : off &&& 0x3C ∉ [0x00#6, 0x04, 0x0C, 0x10]) :
    portAt off ∉ [.cmd, .data, .ctrl, .bufLen] := by
  revert off
  decide

/-- Settles O10: slot by slot, CTRL and BUF_LEN by whether a frame is active. -/
theorem writeReachesTheSlotOrIsIgnored : Obligations.WriteReachesTheSlotOrIsIgnored := by
  unfold Obligations.WriteReachesTheSlotOrIsIgnored
  intro off v s
  have hctrl (h : off &&& 0x3C = 0x0C) : transact (.write off v) s = .next (writeCtrl v s) := transact_write_eq v s h
  have hbufLen (h : off &&& 0x3C = 0x10) : transact (.write off v) s = .next (writeBufLen v s) :=
    transact_write_eq v s h
  refine ⟨transact_write_eq v s, transact_write_eq v s, fun h ha => ?_, fun h ha => ?_, ?_, fun h => ?_⟩
  · rw [hctrl h, writeCtrl_of_inactive v ha, policyOfWord_eq]
  · rw [hbufLen h, writeBufLen_of_inactive v ha]
  · rintro (h | h) ha
    · rw [hctrl h, writeCtrl_of_active v ha]
    · rw [hbufLen h, writeBufLen_of_active v ha]
  · exact (transact_write off v s).trans (writePort_ignored v s (portAt_ignored h))

end Sys2Proof.Machine


namespace Sys2Proof

/-! ### Opcode and immediate decide the decoding (R70 to R73) -/

/-- Opcode and immediate of a legal word are its command's own, which is well formed. -/
theorem fields_of_decodeFields {op : BitVec 8} {imm : BitVec 24} {i : Instr} (h : decodeFields op imm = .ok i) :
    i.wellFormed = true ∧ opcodeOf i = op ∧ immOf i = imm := by
  obtain ⟨rfl, rfl, rfl⟩ | ⟨rfl, rfl, rfl⟩ | ⟨rfl, hr, rfl⟩ | ⟨rfl, rfl, rfl⟩ | ⟨rfl, rfl, rfl⟩ | ⟨rfl, rfl, rfl⟩
    | ⟨rfl, rfl⟩ | ⟨rfl, rfl, rfl⟩ | ⟨rfl, rfl, rfl⟩ | ⟨rfl, hr, rfl⟩ | ⟨rfl, rfl, rfl⟩ | ⟨rfl, rfl, rfl⟩
    | ⟨rfl, rfl, rfl⟩ := decodeFields_cases h
  -- Format Z; then the three rows with an operand, in the table's order.
  any_goals exact ⟨rfl, rfl, rfl⟩
  · exact ⟨rfl, rfl, zeroExtend_immByte imm hr⟩
  · have hcount : imm.toNat ≤ Config.textLenMax := Nat.le_of_lt_succ imm.isLt
    exact ⟨decide_eq_true hcount, rfl, by simp [immOf]⟩
  · exact ⟨rfl, rfl, zeroExtend_immByte imm hr⟩

theorem decode_encode {i : Instr} (h : i.wellFormed = true) : decode (encode i) = .ok i := by
  cases i with
  | nop => exact Laws.RoundTrip.nop h
  | crcInit => exact Laws.RoundTrip.crcInit h
  | crcByte b => exact Laws.RoundTrip.crcByte b h
  | crcWord => exact Laws.RoundTrip.crcWord h
  | crcCheck => exact Laws.RoundTrip.crcCheck h
  | typeBytes => exact Laws.RoundTrip.typeBytes h
  | typeText n => exact Laws.RoundTrip.typeText n h
  | lenParse => exact Laws.RoundTrip.lenParse h
  | frameStart => exact Laws.RoundTrip.frameStart h
  | frameByte b => exact Laws.RoundTrip.frameByte b h
  | frameWord => exact Laws.RoundTrip.frameWord h
  | frameAbort => exact Laws.RoundTrip.frameAbort h
  | clrErr => exact Laws.RoundTrip.clrErr h

/-- Settles O1, command by command: each format's immediate meets its check, and a count of 24 bits does not wrap. -/
theorem decodeInvertsEncode : Obligations.DecodeInvertsEncode :=
  fun _ => decode_encode

/-- Settles O2: a legal word is its command's opcode and immediate side by side. -/
theorem encodeInvertsDecode : Obligations.EncodeInvertsDecode := by
  unfold Obligations.EncodeInvertsDecode
  intro w i h
  obtain ⟨hwf, hop, himm⟩ := fields_of_decodeFields h
  exact ⟨hwf, by rw [encode, hop, himm, fields_append]⟩

/-- Settles O5 by running the decoder on each word. -/
theorem wordsFromTheOpcodeMapDecode : Obligations.WordsFromTheOpcodeMapDecode := by
  unfold Obligations.WordsFromTheOpcodeMapDecode
  decide

/-! ### The legal fields, by format (R71, R72) -/

/-- The 10 opcodes of format Z (R71, R72). -/
abbrev opcodesZ : List (BitVec 8) := [0x00, 0x01, 0x03, 0x04, 0x10, 0x20, 0x30, 0x32, 0x33, 0x7F]

/-- The 2 opcodes of format B (R71, R72). -/
abbrev opcodesB : List (BitVec 8) := [0x02, 0x31]

/-- The opcode is assigned, and the immediate meets its opcode's format (R72). -/
abbrev LegalFields (op : BitVec 8) (imm : BitVec 24) : Prop :=
  (op ∈ opcodesZ ∧ imm = 0) ∨ (op ∈ opcodesB ∧ immReserved imm = 0) ∨ op = 0x11#8

/-- R73, R76: exactly the words of legal fields decode. -/
theorem decodeFields_ok_iff (op : BitVec 8) (imm : BitVec 24) :
    (∃ i, decodeFields op imm = .ok i) ↔ LegalFields op imm := by
  constructor
  · rintro ⟨i, h⟩
    obtain ⟨-, rfl, rfl⟩ := fields_of_decodeFields h
    cases i with
    | crcByte b | frameByte b => exact .inr (.inl ⟨by simp [opcodeOf], immReserved_zeroExtend b⟩)
    | typeText n => exact .inr (.inr rfl)
    | nop | crcInit | crcWord | crcCheck | typeBytes | lenParse | frameStart | frameWord | frameAbort | clrErr =>
      exact .inl ⟨by decide, rfl⟩
  · rintro (⟨hop, rfl⟩ | ⟨hop, hr⟩ | rfl)
    · fin_cases hop <;> exact ⟨_, rfl⟩
    · fin_cases hop <;> exact ⟨_, (decodeB_ok_iff _ _ _ _).2 ⟨hr, rfl⟩⟩
    · exact ⟨_, decodeFields_typeText imm⟩

/-! ### The mask and match table (R76) -/

/-- The bits of IMM24 that a command's format requires to be 0 (R72, R76). -/
def immMask : Instr → BitVec 24
  | .crcByte _ | .frameByte _ => 0xFFFF00
  | .typeText _ => 0
  | .nop | .crcInit | .crcWord | .crcCheck | .typeBytes | .lenParse
  | .frameStart | .frameWord | .frameAbort | .clrErr => 0xFFFFFF

theorem rowOf_mask (i : Instr) : (rowOf i).mask = 0xFF#8 ++ immMask i := by
  cases i <;> rw [rowOf, immMask] <;> decide

theorem rowOf_pattern (i : Instr) : (rowOf i).pattern = opcodeOf i ++ 0#24 := by
  cases i <;> rw [rowOf, opcodeOf] <;> decide

/-- A row tests the opcode and the bits its format requires to be 0. -/
theorem rowOf_selects_iff (i : Instr) (w : Word) :
    (rowOf i).selects w ↔ opcodeField w = opcodeOf i ∧ immField w &&& immMask i = 0 := by
  have hand : w &&& (0xFF#8 ++ immMask i) = opcodeField w ++ (immField w &&& immMask i) := by
    calc w &&& (0xFF#8 ++ immMask i)
        = (opcodeField w ++ immField w) &&& (BitVec.allOnes 8 ++ immMask i) := by rw [fields_append]; rfl
      _ = opcodeField w ++ (immField w &&& immMask i) := by rw [BitVec.and_append, BitVec.and_allOnes]
  rw [CommandRow.selects, rowOf_mask, rowOf_pattern, hand]
  constructor
  · intro h
    exact ⟨by simpa using congrArg opcodeField h, by simpa using congrArg immField h⟩
  · rintro ⟨hop, himm⟩
    rw [hop, himm]
    rfl

theorem zeroExtend_byte (b : Byte) : b.zeroExtend 24 = 0#16 ++ b :=
  BitVec.setWidth_eq_append (by decide)

theorem immReserved_eq_zero_of_mask {imm : BitVec 24} (h : imm &&& 0xFFFF00#24 = 0) : immReserved imm = 0 := by
  have hmask : immReserved 0xFFFF00#24 = BitVec.allOnes 16 := by decide
  calc immReserved imm = immReserved imm &&& immReserved 0xFFFF00#24 := by rw [hmask, BitVec.and_allOnes]
    _ = immReserved (imm &&& 0xFFFF00#24) := BitVec.extractLsb'_and.symm
    _ = 0 := by rw [h]; rfl

/-- A command's immediate has no bit that its format requires to be 0. -/
theorem immOf_and_immMask (i : Instr) : immOf i &&& immMask i = 0 := by
  cases i with
  | crcByte b | frameByte b =>
    have hmask : 0xFFFF00#24 = BitVec.allOnes 16 ++ 0#8 := by decide
    change b.zeroExtend 24 &&& 0xFFFF00#24 = 0
    rw [zeroExtend_byte, hmask, BitVec.and_append, BitVec.zero_and, BitVec.and_zero]
    rfl
  | typeText n => exact BitVec.and_zero
  | nop | crcInit | crcWord | crcCheck | typeBytes | lenParse | frameStart | frameWord | frameAbort | clrErr =>
    exact BitVec.zero_and

theorem rowOf_mem (i : Instr) : rowOf i ∈ commandRows := by
  cases i <;> simp [commandRows, rowOf]

theorem exists_rowOf_of_mem {r : CommandRow} (h : r ∈ commandRows) : ∃ i, rowOf i = r := by
  fin_cases h <;> exact ⟨_, rfl⟩

theorem rowOf_selects_of_decode {w : Word} {i : Instr} (h : decode w = .ok i) : (rowOf i).selects w := by
  obtain ⟨-, hop, himm⟩ := fields_of_decodeFields h
  exact (rowOf_selects_iff i w).2 ⟨hop.symm, by rw [← himm, immOf_and_immMask]⟩

/-- A word that a command's row selects decodes to a command of that row. -/
theorem decode_of_rowOf_selects {i : Instr} {w : Word} (h : (rowOf i).selects w) :
    ∃ j, decode w = .ok j ∧ rowOf j = rowOf i := by
  obtain ⟨hop, himm⟩ := (rowOf_selects_iff i w).1 h
  rw [decode, hop]
  cases i with
  | crcByte b | frameByte b =>
    exact ⟨_, (decodeB_ok_iff _ _ _ _).2 ⟨immReserved_eq_zero_of_mask himm, rfl⟩, rfl⟩
  | typeText n => exact ⟨_, decodeFields_typeText _, rfl⟩
  | nop | crcInit | crcWord | crcCheck | typeBytes | lenParse | frameStart | frameWord | frameAbort | clrErr =>
    have hzero : immField w = 0 := BitVec.and_allOnes.symm.trans himm
    rw [hzero]
    exact ⟨_, rfl, rfl⟩

/-- Settles O3: two rows that select a word are both the row of the command it decodes to. -/
theorem maskMatchTableSelectsTheCommand : Obligations.MaskMatchTableSelectsTheCommand := by
  unfold Obligations.MaskMatchTableSelectsTheCommand
  have hdecode (w : Word) (r : CommandRow) (hr : r ∈ commandRows) (hw : r.selects w) :
      ∃ i, decode w = .ok i ∧ rowOf i = r := by
    obtain ⟨i, rfl⟩ := exists_rowOf_of_mem hr
    exact decode_of_rowOf_selects hw
  refine ⟨fun w i h => ⟨rowOf_mem i, rowOf_selects_of_decode h⟩, hdecode, fun w r q hr hq hrw hqw => ?_⟩
  obtain ⟨i, hi, rfl⟩ := hdecode w r hr hrw
  obtain ⟨j, hj, rfl⟩ := hdecode w q hq hqw
  cases hi.symm.trans hj
  rfl

end Sys2Proof

namespace Sys2Proof.Machine

/-! ### Illegal words (R73) -/

/-- R73's three ways to be illegal. -/
theorem not_legalFields {op : BitVec 8} {imm : BitVec 24}
    (h : op ∉ [0x00#8, 0x01, 0x02, 0x03, 0x04, 0x10, 0x11, 0x20, 0x30, 0x31, 0x32, 0x33, 0x7F]
      ∨ (op ∈ opcodesZ ∧ imm ≠ 0) ∨ (op ∈ opcodesB ∧ immReserved imm ≠ 0)) : ¬ LegalFields op imm := by
  rintro (⟨hop, rfl⟩ | ⟨hop, hr⟩ | rfl)
  · fin_cases hop <;> simp at h
  · fin_cases hop <;> simp [hr] at h
  · simp at h

/-- Settles O4: the illegal fields are those that are not legal, and a word that does not decode raises 6. -/
theorem wordsAreLegalOrChangeOnlyResultAndErr : Obligations.WordsAreLegalOrChangeOnlyResultAndErr := by
  unfold Obligations.WordsAreLegalOrChangeOnlyResultAndErr
  refine ⟨fun op imm s hillegal => ?_, fun op imm hlegal => ?_⟩
  · cases hd : decode (op ++ imm) with
    | error e => exact issueCommand_of_error s hd
    | ok i =>
      rw [decode_append] at hd
      exact absurd ((decodeFields_ok_iff op imm).1 ⟨i, hd⟩) (not_legalFields hillegal)
  · obtain ⟨i, hi⟩ := (decodeFields_ok_iff op imm).2 hlegal
    obtain ⟨-, hop, himm⟩ := fields_of_decodeFields hi
    exact ⟨i, (decode_append op imm).trans hi, hop, himm⟩

/-! ### Commands in a step and during a frame (R75) -/

/-- Settles O6: the step is the pending write, the write reaches CMD, and CMD executes a legal word. -/
theorem stepExecutesTheDecodedCommand : Obligations.StepExecutesTheDecodedCommand := by
  unfold Obligations.StepExecutesTheDecodedCommand
  intro s off w rest i hp hoff hd
  calc step s = transact (.write off w) { s with pending := rest } := step_of_pending_cons hp
    _ = issueCommand w { s with pending := rest } := transact_write_eq w _ hoff
    _ = exec i { s with pending := rest } := issueCommand_of_ok _ hd

/-- The commands of opcodes 0x01 to 0x20 are standalone (R75). -/
theorem exec_eq_standalone {i : Instr} (h : opcodeOf i ∈ [0x01#8, 0x02, 0x03, 0x04, 0x10, 0x11, 0x20]) :
    ∃ body, exec i = standalone body := by
  cases i with
  | crcInit | crcByte b | crcWord | crcCheck | typeBytes | typeText n | lenParse => exact ⟨_, rfl⟩
  | nop | frameStart | frameByte b | frameWord | frameAbort | clrErr => simp [opcodeOf] at h

/-- Settles O47: the phase check refuses a standalone command before its body runs. -/
theorem standaloneCommandsRefusedDuringAFrame : Obligations.StandaloneCommandsRefusedDuringAFrame := by
  unfold Obligations.StandaloneCommandsRefusedDuringAFrame
  intro i s hop ha
  obtain ⟨body, hbody⟩ := exec_eq_standalone hop
  rw [hbody, standalone_of_active ha]
  rfl

/-! ### Assembled transactions (R77, R78) -/

/-- Every CMD write of the transactions is a word that decodes. -/
abbrev CommandsDecode (ts : List Txn) : Prop :=
  ∀ off w, .write off w ∈ ts → off &&& 0x3C = 0x00 → ∃ i, decode w = .ok i

theorem commandsDecode_append {ts us : List Txn} (ht : CommandsDecode ts) (hu : CommandsDecode us) :
    CommandsDecode (ts ++ us) :=
  fun off w hmem => (List.mem_append.1 hmem).elim (ht off w) (hu off w)

theorem commandsDecode_commandTxn {i : Instr} (h : i.wellFormed = true) : CommandsDecode [commandTxn i] := by
  intro off w hmem _
  cases List.mem_singleton.1 hmem
  exact ⟨i, decode_encode h⟩

theorem commandsDecode_dataCommandTxns (v : Word) {i : Instr} (h : i.wellFormed = true) :
    CommandsDecode (dataCommandTxns v i) := by
  have hdata : CommandsDecode [.write (offsetOf .data) v] := by
    intro off w hmem hoff
    cases List.mem_singleton.1 hmem
    exact absurd hoff (by decide)
  exact commandsDecode_append hdata (commandsDecode_commandTxn h)

/-- Fewer than 4 bytes left are fed as bytes (R78). -/
theorem feedTxns_of_length_lt (word : Instr) (byte : Byte → Instr) {d : List Byte} (h : d.length < 4) :
    feedTxns word byte d = d.map (fun b => commandTxn (byte b)) := by
  rw [feedTxns]
  rintro b0 b1 b2 b3 rest rfl
  simp only [List.length_cons] at h
  omega

theorem typeStrTxns_of_length_ne {d : List Byte} (h : d.length ≠ 4) :
    typeStrTxns d = dataCommandTxns 0 (.typeText (min d.length Config.textLenMax)) := by
  rw [typeStrTxns]
  rintro b0 b1 b2 b3 rfl
  exact h rfl

theorem commandsDecode_feedTxns {word : Instr} {byte : Byte → Instr} (hword : word.wellFormed = true)
    (hbyte : ∀ b, (byte b).wellFormed = true) (d : List Byte) : CommandsDecode (feedTxns word byte d) := by
  induction d using feedTxns.induct with
  | case1 b0 b1 b2 b3 rest ih => exact commandsDecode_append (commandsDecode_dataCommandTxns _ hword) ih
  | case2 rest hrest =>
    rw [feedTxns.eq_2 _ _ _ hrest]
    intro off w hmem _
    obtain ⟨b, -, hb⟩ := List.mem_map.1 hmem
    cases hb
    exact ⟨byte b, decode_encode (hbyte b)⟩

/-- The saturated length of a string is a count of 24 bits (R78). -/
theorem commandsDecode_typeStrTxns (d : List Byte) : CommandsDecode (typeStrTxns d) := by
  by_cases h : d.length = 4
  · obtain ⟨b0, b1, b2, b3, rfl⟩ := List.length_eq_four.1 h
    exact commandsDecode_dataCommandTxns _ rfl
  · rw [typeStrTxns_of_length_ne h]
    exact commandsDecode_dataCommandTxns _ (decide_eq_true (min_le_right _ _))

theorem assembleStmt_command_eq_some {i : Instr} {ts : List Txn} :
    assembleStmt (.command i) = some ts ↔ i.wellFormed = true ∧ [commandTxn i] = ts :=
  Option.ite_none_right_eq_some.trans (by simp)

theorem assembleStmt_withData_eq_some {v : Word} {i : Instr} {ts : List Txn} :
    assembleStmt (.withData v i) = some ts ↔ i.wellFormed = true ∧ dataCommandTxns v i = ts :=
  Option.ite_none_right_eq_some.trans (by simp)

theorem assembleStmt_commandsDecode {st : Stmt} {ts : List Txn} (hst : ∀ r v, st ≠ .wr r v)
    (h : assembleStmt st = some ts) : CommandsDecode ts := by
  cases st with
  | wr r v => exact absurd rfl (hst r v)
  | rd _ | reset | expect _ _ =>
    cases h
    simp [CommandsDecode]
  | command i =>
    obtain ⟨hwf, rfl⟩ := assembleStmt_command_eq_some.1 h
    exact commandsDecode_commandTxn hwf
  | withData v i =>
    obtain ⟨hwf, rfl⟩ := assembleStmt_withData_eq_some.1 h
    exact commandsDecode_dataCommandTxns v hwf
  | typeStr d =>
    cases h
    exact commandsDecode_typeStrTxns d
  | crcFeed d | frameFeed d =>
    cases h
    exact commandsDecode_feedTxns rfl (fun _ => rfl) d
  | chunkCrc t d =>
    cases h
    have hseed : CommandsDecode (commandTxn .crcInit :: dataCommandTxns t .crcWord) :=
      commandsDecode_append (commandsDecode_commandTxn rfl) (commandsDecode_dataCommandTxns t rfl)
    exact commandsDecode_append hseed (commandsDecode_feedTxns rfl (fun _ => rfl) d)

theorem wellFormed_eq_false_iff (i : Instr) :
    i.wellFormed = false ↔ ∃ n, 0xFFFFFF < n ∧ i = .typeText n := by
  cases i with
  | typeText n =>
    have hcount : (Instr.typeText n).wellFormed = false ↔ 0xFFFFFF < n := decide_eq_false_iff_not.trans not_le
    simp [hcount]
  | nop | crcInit | crcByte _ | crcWord | crcCheck | typeBytes | lenParse | frameStart | frameByte _ | frameWord
    | frameAbort | clrErr => simp [Instr.wellFormed]

/-- Only a count above 24 bits is refused (R77). -/
theorem assembleStmt_eq_none_iff (st : Stmt) :
    assembleStmt st = none ↔
      ∃ n, 0xFFFFFF < n ∧ (st = .command (.typeText n) ∨ ∃ v, st = .withData v (.typeText n)) := by
  cases st with
  | command i | withData _ i => simp [assembleStmt, wellFormed_eq_false_iff i]
  | wr _ _ | rd _ | reset | typeStr _ | crcFeed _ | frameFeed _ | chunkCrc _ _ | expect _ _ => simp [assembleStmt]

/-- A format B word with its reserved bits written out (R72). -/
theorem append_zeroExtend_byte (op : BitVec 8) (b : Byte) : op ++ b.zeroExtend 24 = (op ++ 0#16) ++ b := by
  rw [zeroExtend_byte, BitVec.append_assoc']
  rfl

/-- Settles O51: the CMD writes of each form are words of well-formed commands, and the transactions of each form are the
assembler's own equations, with a byte command's word written out. -/
theorem assembledCommandsAreLegal : Obligations.AssembledCommandsAreLegal := by
  unfold Obligations.AssembledCommandsAreLegal
  refine ⟨fun st ts off w hst h => assembleStmt_commandsDecode hst h off w, assembleStmt_eq_none_iff,
    fun i ts h => ?command, fun v i ts h => ?withData, rfl, fun r v => ?registers, fun b0 b1 b2 b3 => rfl,
    fun d h => ?typeStr, fun b0 b1 b2 b3 d => ⟨_, _, rfl, rfl, rfl, rfl⟩, fun d h => ?feed, fun t d => ⟨_, rfl, rfl⟩⟩
  case command =>
    obtain ⟨hwf, rfl⟩ := assembleStmt_command_eq_some.1 h
    exact ⟨_, rfl, decode_encode hwf⟩
  case withData =>
    obtain ⟨hwf, rfl⟩ := assembleStmt_withData_eq_some.1 h
    exact ⟨_, rfl, decode_encode hwf⟩
  case registers =>
    exact ⟨offsetOf r, by cases r <;> rfl, by cases r <;> rfl, rfl, rfl, rfl⟩
  case typeStr => exact congrArg some (typeStrTxns_of_length_ne h)
  case feed =>
    have hbyte (b : Byte) : encode (.crcByte b) = 0x020000#24 ++ b := append_zeroExtend_byte 0x02 b
    have hframe (b : Byte) : encode (.frameByte b) = 0x310000#24 ++ b := append_zeroExtend_byte 0x31 b
    simp only [assembleStmt, feedTxns_of_length_lt _ _ h, commandTxn, hbyte, hframe]
    exact ⟨rfl, rfl⟩

end Sys2Proof.Machine

namespace Sys2Proof.Machine

/-! ### Letters (R100, R102) -/

/-- R100's range of the letters `A` to `Z`. -/
abbrev UpperRange (b : Byte) : Prop := 0x41 ≤ b.toNat ∧ b.toNat ≤ 0x5A

/-- R100's range of the letters `a` to `z`. -/
abbrev LowerRange (b : Byte) : Prop := 0x61 ≤ b.toNat ∧ b.toNat ≤ 0x7A

theorem isUpper_iff (b : Byte) : isUpper b = true ↔ UpperRange b := by
  simp only [isUpper, Bool.and_eq_true, decide_eq_true_iff]

theorem isLower_iff (b : Byte) : isLower b = true ↔ LowerRange b := by
  simp only [isLower, Bool.and_eq_true, decide_eq_true_iff]

theorem isLetter_iff (b : Byte) : isLetter b = true ↔ UpperRange b ∨ LowerRange b := by
  rw [isLetter, Bool.or_eq_true, isUpper_iff, isLower_iff]

theorem allLetters_iff (w : Word) :
    allLetters w = true ↔ isLetter (byte0 w) = true ∧ isLetter (byte1 w) = true ∧ isLetter (byte2 w) = true
      ∧ isLetter (byte3 w) = true := by
  simp only [allLetters, Bool.and_eq_true, and_assoc]

theorem allLetters_iff_ranges (w : Word) :
    allLetters w = true ↔ (UpperRange (byte0 w) ∨ LowerRange (byte0 w)) ∧ (UpperRange (byte1 w) ∨ LowerRange (byte1 w))
      ∧ (UpperRange (byte2 w) ∨ LowerRange (byte2 w)) ∧ (UpperRange (byte3 w) ∨ LowerRange (byte3 w)) := by
  simp only [allLetters_iff, isLetter_iff]

theorem getLsbD_five_iff (b : Byte) : b.getLsbD 5 = true ↔ b.toNat / 32 % 2 = 1 := by
  rw [BitVec.getLsbD, Nat.testBit_eq_decide_div_mod_eq, decide_eq_true_iff]

/-- R102: the lower case letters are the letters with bit 5, since `A` to `Z` lie in 64 to 95 and `a` to `z` in 96 to
127. -/
theorem isLower_eq_getLsbD_five {b : Byte} (h : isLetter b = true) : isLower b = b.getLsbD 5 := by
  have hrange := (isLetter_iff b).1 h
  rw [Bool.eq_iff_iff, isLower_iff, getLsbD_five_iff]
  omega

theorem isUpper_eq_not_isLower {b : Byte} (h : isLetter b = true) : isUpper b = !isLower b := by
  have hrange := (isLetter_iff b).1 h
  rw [Bool.eq_iff_iff, Bool.not_eq_true', ← Bool.not_eq_true, isUpper_iff, isLower_iff]
  omega

theorem isUpper_eq_not_getLsbD_five {b : Byte} (h : isLetter b = true) : isUpper b = !b.getLsbD 5 := by
  rw [isUpper_eq_not_isLower h, isLower_eq_getLsbD_five h]

theorem getLsbD_byte0 (w : Word) {i : Nat} (h : i < 8) : (byte0 w).getLsbD i = w.getLsbD (24 + i) := by
  simp [byte0, h]

theorem getLsbD_byte1 (w : Word) {i : Nat} (h : i < 8) : (byte1 w).getLsbD i = w.getLsbD (16 + i) := by
  simp [byte1, h]

theorem getLsbD_byte2 (w : Word) {i : Nat} (h : i < 8) : (byte2 w).getLsbD i = w.getLsbD (8 + i) := by
  simp [byte2, h]

theorem getLsbD_byte3 (w : Word) {i : Nat} (h : i < 8) : (byte3 w).getLsbD i = w.getLsbD i := by
  simp [byte3, h]

/-! ### The bits of TFLAGS (R101) -/

/-- TFLAGS as its flags put side by side, CRITICAL last. -/
theorem typeFlags_eq_concat (t : Word) :
    typeFlags t = ((((((0#26).concat (allLetters t)).concat (isUpper (byte2 t))).concat (isLower (byte3 t))).concat
      (isUpper (byte2 t))).concat (isUpper (byte1 t))).concat (isUpper (byte0 t)) := rfl

theorem typeFlags_critical (t : Word) : (typeFlags t).getLsbD 0 = isUpper (byte0 t) := by
  rw [typeFlags_eq_concat, BitVec.getLsbD_concat_zero]

theorem typeFlags_public (t : Word) : (typeFlags t).getLsbD 1 = isUpper (byte1 t) := by
  simp only [typeFlags_eq_concat, BitVec.getLsbD_concat_succ, BitVec.getLsbD_concat_zero]

theorem typeFlags_reservedBitValid (t : Word) : (typeFlags t).getLsbD 2 = isUpper (byte2 t) := by
  simp only [typeFlags_eq_concat, BitVec.getLsbD_concat_succ, BitVec.getLsbD_concat_zero]

theorem typeFlags_safeToCopy (t : Word) : (typeFlags t).getLsbD 3 = isLower (byte3 t) := by
  simp only [typeFlags_eq_concat, BitVec.getLsbD_concat_succ, BitVec.getLsbD_concat_zero]

theorem typeFlags_valid (t : Word) : (typeFlags t).getLsbD 4 = isUpper (byte2 t) := by
  simp only [typeFlags_eq_concat, BitVec.getLsbD_concat_succ, BitVec.getLsbD_concat_zero]

theorem typeFlags_allLetters (t : Word) : (typeFlags t).getLsbD 5 = allLetters t := by
  simp only [typeFlags_eq_concat, BitVec.getLsbD_concat_succ, BitVec.getLsbD_concat_zero]

/-- The 26 bits above ALL_LETTERS are 0. -/
theorem typeFlags_lt (t : Word) : (typeFlags t).toNat < 64 := by
  simp only [typeFlags, toNat_append_eq_add, BitVec.toNat_ofNat]
  omega

/-- Settles O25: each bit is a letter test of a byte of TYPE, and each test is its range. -/
theorem typeFlagsAreTheLetterTests : Obligations.TypeFlagsAreTheLetterTests := by
  unfold Obligations.TypeFlagsAreTheLetterTests
  intro t upper lower
  rw [typeFlags_critical, typeFlags_public, typeFlags_reservedBitValid, typeFlags_safeToCopy, typeFlags_valid,
    typeFlags_allLetters]
  exact ⟨isUpper_iff _, isUpper_iff _, isUpper_iff _, isLower_iff _, isUpper_iff _, allLetters_iff_ranges t,
    typeFlags_lt t⟩

/-- Settles O26: ALL_LETTERS makes every byte a letter, and the case of a letter is its bit 5. -/
theorem letterTypeFlagsAreBitFive : Obligations.LetterTypeFlagsAreBitFive := by
  unfold Obligations.LetterTypeFlagsAreBitFive
  intro t hletters
  rw [typeFlags_allLetters] at hletters
  obtain ⟨h0, h1, h2, h3⟩ := (allLetters_iff t).1 hletters
  have h5 : 5 < 8 := by decide
  rw [typeFlags_critical, typeFlags_public, typeFlags_reservedBitValid, typeFlags_safeToCopy,
    isUpper_eq_not_getLsbD_five h0, isUpper_eq_not_getLsbD_five h1, isUpper_eq_not_getLsbD_five h2,
    isLower_eq_getLsbD_five h3, getLsbD_byte0 t h5, getLsbD_byte1 t h5, getLsbD_byte2 t h5, getLsbD_byte3 t h5]
  exact ⟨rfl, rfl, rfl, rfl⟩

/-! ### Command words on the bus (R73, R75, R77, R78) -/

/-- A legal word written to CMD is its command executed (R75). -/
theorem transact_cmd_of_decode {w : Word} {i : Instr} (s : State) (h : decode w = .ok i) :
    transact (.write 0x00 w) s = exec i s :=
  issueCommand_of_ok s h

/-- A format Z opcode with an immediate other than 0 raises 6 (R72, R73). -/
theorem transact_cmd_of_formatZ_immediate {op : BitVec 8} {imm : BitVec 24} (s : State) (hop : op ∈ opcodesZ)
    (himm : imm ≠ 0) : transact (.write 0x00 (op ++ imm)) s = .next (raiseCode .illegalCommand s) :=
  wordsAreLegalOrChangeOnlyResultAndErr.1 op imm s (.inr (.inl ⟨hop, himm⟩))

/-- `wr DATA, v` and a command run as the command with `v` in DATA (R54, R75). -/
theorem runTxns_dataCommandTxns {v : Word} {i : Instr} {s t : State} (hwf : i.wellFormed = true)
    (h : exec i (writeData v s) = .next t) : runTxns (dataCommandTxns v i) s = .next t := by
  have hdata : transact (.write (offsetOf .data) v) s = .next (writeData v s) := rfl
  have hcmd : transact (commandTxn i) (writeData v s) = .next t :=
    (transact_cmd_of_decode _ (decode_encode hwf)).trans h
  rw [dataCommandTxns, runTxns_cons_of_transact _ hdata, runTxns_cons_of_transact _ hcmd, runTxns]

/-! ### The ChunkType commands (R103, R104) -/

theorem exec_typeBytes_of_inactive {s : State} (ha : active s.phase = false) :
    exec .typeBytes s = .next (finishOk { s with chunkType := s.data }) := by
  rw [exec_typeBytes, standalone_of_inactive ha]

theorem exec_typeText_of_ne_four {n : Nat} {s : State} (ha : active s.phase = false) (hn : n ≠ 4) :
    exec (.typeText n) s = .next (raiseCode .invalidChunkTypeLength s) := by
  rw [exec_typeText, standalone_of_inactive ha, if_pos hn]

theorem exec_typeText_of_not_letters {s : State} (ha : active s.phase = false) (hl : ¬ allLetters s.data = true) :
    exec (.typeText 4) s = .next (raiseCode .invalidChunkTypeCharacter s) := by
  rw [exec_typeText, standalone_of_inactive ha, if_neg (not_not.2 rfl), if_neg hl]

theorem exec_typeText_of_letters {s : State} (ha : active s.phase = false) (hl : allLetters s.data = true) :
    exec (.typeText 4) s = .next (finishOk { s with chunkType := s.data }) := by
  rw [exec_typeText, standalone_of_inactive ha, if_neg (not_not.2 rfl), if_pos hl]

/-- Settles O27: the phase check decides between the copy and the refusal, and the format Z immediate decides the word. -/
theorem typeBytesTakesData : Obligations.TypeBytesTakesData := by
  unfold Obligations.TypeBytesTakesData
  intro s imm
  have hword : decode 0x10000000 = .ok .typeBytes := decode_encode (i := .typeBytes) rfl
  exact ⟨exec_typeBytes_of_inactive, standaloneCommandsRefusedDuringAFrame .typeBytes s (by decide),
    transact_cmd_of_decode s hword, transact_cmd_of_formatZ_immediate s (by decide)⟩

/-- Settles O28: the phase check, then TYPE_TEXT's two tests in order, with ALL_LETTERS as R100's ranges; format N admits
every immediate. -/
theorem typeTextChecksLengthThenLetters : Obligations.TypeTextChecksLengthThenLetters := by
  unfold Obligations.TypeTextChecksLengthThenLetters
  intro s n imm letter letters
  have hletters : allLetters s.data = true ↔ letters := allLetters_iff_ranges s.data
  have hword : decode (0x11#8 ++ imm) = .ok (.typeText imm.toNat) := by
    rw [decode_append, decodeFields_typeText]
  have hop : opcodeOf (.typeText n) ∈ [0x01#8, 0x02, 0x03, 0x04, 0x10, 0x11, 0x20] := by simp [opcodeOf]
  refine ⟨standaloneCommandsRefusedDuringAFrame _ s hop, exec_typeText_of_ne_four, ?notLetters, ?areLetters,
    transact_cmd_of_decode s hword⟩
  case notLetters =>
    rintro ha rfl hl
    exact exec_typeText_of_not_letters ha (mt hletters.1 hl)
  case areLetters =>
    rintro ha rfl hl
    exact exec_typeText_of_letters ha (hletters.2 hl)

/-! ### Writing a type and reading it back (R106) -/

/-- A command that copies DATA to TYPE and completes leaves the word written to DATA for the host to read. -/
theorem withData_type_reads_back {v : Word} {i : Instr} {s : State} (hwf : i.wellFormed = true)
    (h : exec i (writeData v s) = .next (finishOk { writeData v s with chunkType := v })) :
    ∃ ts t, assembleStmt (.withData v i) = some ts ∧ runTxns ts s = .next t ∧ t.result = .ok ∧ busRead 0x1C t = v :=
  ⟨dataCommandTxns v i, _, assembleStmt_withData_eq_some.2 ⟨hwf, rfl⟩, runTxns_dataCommandTxns hwf h, rfl, rfl⟩

/-- Settles O29: both commands copy DATA, which holds `v`, to TYPE; TYPE_TEXT needs its letters for that. -/
theorem typeRoundTrip : Obligations.TypeRoundTrip := by
  unfold Obligations.TypeRoundTrip
  intro s v ha
  have ha' : active (writeData v s).phase = false := ha
  exact ⟨fun hl => withData_type_reads_back rfl (exec_typeText_of_letters ha' hl),
    withData_type_reads_back rfl (exec_typeBytes_of_inactive ha')⟩

end Sys2Proof.Machine

namespace Sys2Proof.Machine

/-! ### One step of the checksum and its table (R120, R123) -/

theorem crcBit_of_getLsbD_zero {w : Word} (h : w.getLsbD 0 = false) : crcBit w = w >>> 1 := by
  rw [crcBit, h]
  rfl

/-- Bit updates that only shift zeros out never meet the polynomial. -/
theorem crcBits_eq_ushiftRight {n : Nat} {w : Word} (h : ∀ i < n, w.getLsbD i = false) : crcBits n w = w >>> n := by
  induction n generalizing w with
  | zero => rfl
  | succ n ih =>
    have hshifted : ∀ i < n, (w >>> 1).getLsbD i = false := fun i hi => by
      rw [BitVec.getLsbD_ushiftRight]
      exact h (1 + i) (by omega)
    rw [crcBits, crcBit_of_getLsbD_zero (h 0 n.succ_pos), ih hshifted, ← BitVec.shiftRight_add, Nat.add_comm 1 n]

/-- A word is its low byte and the rest. -/
theorem zext32_low_xor_rest (w : Word) : zext32 (w.extractLsb' 0 8) ^^^ (w >>> 8 <<< 8) = w := by
  ext i hi
  by_cases h : i < 8
  · simp [zext32, h, hi]
  · simp [zext32, h, show 8 + (i - 8) = i by omega, hi]

/-- Eight bit updates consume the low byte of what CRC is combined with; the rest moves down unchanged. -/
theorem crcBits_eight_xor (c w : Word) : crcBits 8 (c ^^^ w) = crcByte c (w.extractLsb' 0 8) ^^^ (w >>> 8) := by
  have hlow : ∀ i < 8, (w >>> 8 <<< 8).getLsbD i = false := fun i hi => by simp [hi]
  have hback : w >>> 8 <<< 8 >>> 8 = w >>> 8 := by
    ext i hi
    simpa using BitVec.lt_of_getLsbD
  calc crcBits 8 (c ^^^ w)
      = crcBits 8 ((c ^^^ zext32 (w.extractLsb' 0 8)) ^^^ (w >>> 8 <<< 8)) := by
        rw [BitVec.xor_assoc, zext32_low_xor_rest]
    _ = crcByte c (w.extractLsb' 0 8) ^^^ (w >>> 8) := by
        rw [crcBits_xor, crcBits_eq_ushiftRight hlow, hback, crcByte]

/-- R123: a byte step is a table lookup, the table being the byte step from 0. -/
theorem crcByte_eq_table (c : Word) (b : Byte) :
    crcByte c b = (c >>> 8) ^^^ crcByte 0 ((c ^^^ zext32 b).extractLsb' 0 8) := by
  have hshift : (c ^^^ zext32 b) >>> 8 = c >>> 8 := by
    ext i hi
    simp [zext32]
  calc crcByte c b
      = crcBits 8 (0#32 ^^^ (c ^^^ zext32 b)) := by rw [crcByte, BitVec.zero_xor]
    _ = (c >>> 8) ^^^ crcByte 0 ((c ^^^ zext32 b).extractLsb' 0 8) := by
        rw [crcBits_eight_xor, hshift, BitVec.xor_comm]
        rfl

/-! ### The residue (R125) -/

/-- Feeding a word low byte first is 32 bit updates of CRC combined with the word. -/
theorem crcSeq_streamBytes_reverse (c w : Word) : crcSeq c (streamBytes w).reverse = crcBits 32 (c ^^^ w) := by
  have h2 : (w >>> 8).extractLsb' 0 8 = byte2 w := by
    ext i hi
    simp [byte2]
  have h1 : (w >>> 8 >>> 8).extractLsb' 0 8 = byte1 w := by
    ext i hi
    simp [byte1]
  have h0 : (w >>> 8 >>> 8 >>> 8).extractLsb' 0 8 = byte0 w := by
    ext i hi
    simp [byte0]
  have hrest : w >>> 8 >>> 8 >>> 8 >>> 8 = 0#32 := by
    ext i hi
    simp
  calc crcSeq c (streamBytes w).reverse
      = crcByte (crcByte (crcByte (crcByte c (byte3 w)) (byte2 w)) (byte1 w)) (byte0 w) := rfl
    _ = crcBits 8 (crcBits 8 (crcBits 8 (crcBits 8 (c ^^^ w)))) := by
        rw [crcBits_eight_xor, crcBits_eight_xor, h2, crcBits_eight_xor, h1, crcBits_eight_xor, h0, hrest,
          BitVec.xor_zero]
        rfl
    _ = crcBits 32 (c ^^^ w) := rfl

/-- The published residue is 32 bit updates of the final XOR's word. -/
theorem crcBits_ones : crcBits 32 0xFFFFFFFF = 0xDEBB20E3 := by
  decide +kernel

/-- Settles O20: the checksum's bytes cancel CRC and leave the final XOR's word, whatever the message was. -/
theorem crcResidueAfterItsOwnChecksum : Obligations.CrcResidueAfterItsOwnChecksum := by
  unfold Obligations.CrcResidueAfterItsOwnChecksum
  intro m
  rw [crcSeq_append, crcSeq_streamBytes_reverse, crc32, ← BitVec.xor_assoc, BitVec.xor_self, BitVec.zero_xor,
    crcBits_ones]

/-! ### One changed byte (R129) -/

/-- A byte changed anywhere in a message changes CRC: the byte step tells the bytes apart, and the steps after it keep
the two values apart. -/
theorem crcSeq_modify_ne {f : Byte → Byte} (hf : ∀ b, f b ≠ b) {m : List Byte} {j : Nat} (hj : j < m.length)
    (c : Word) : crcSeq c (m.modify j f) ≠ crcSeq c m := by
  induction m generalizing j c with
  | nil => exact absurd hj (Nat.not_lt_zero j)
  | cons b m ih =>
    cases j with
    | zero => exact fun h => hf b (crcByte_injective_byte c (crcSeq_injective_crc m h))
    | succ j => exact ih (Nat.lt_of_succ_lt_succ hj) (crcByte c b)

theorem xor_twoPow_ne (b : Byte) {k : Nat} (hk : k < 8) : b ^^^ BitVec.ofNat 8 (2 ^ k) ≠ b := by
  intro h
  have hzero : BitVec.ofNat 8 (2 ^ k) = 0 := (BitVec.xor_right_inj b).1 (h.trans BitVec.xor_zero.symm)
  have hnz : ∀ k : Fin 8, BitVec.ofNat 8 (2 ^ k.val) ≠ 0 := by decide
  exact hnz ⟨k, hk⟩ hzero

/-- Settles O24: the flipped bit changes its byte, and the final XOR keeps the values apart. -/
theorem oneFlippedBitChangesTheChecksum : Obligations.OneFlippedBitChangesTheChecksum := by
  unfold Obligations.OneFlippedBitChangesTheChecksum
  intro m j k hj hk h
  exact crcSeq_modify_ne (fun b => xor_twoPow_ne b hk) hj 0xFFFFFFFF ((BitVec.xor_left_inj _).1 h)

/-! ### The CRC commands (R124 to R127) -/

theorem exec_crcInit_of_inactive {s : State} (ha : active s.phase = false) :
    exec .crcInit s = .next (finishOk { s with crc := 0xFFFFFFFF }) := by
  rw [exec_crcInit, standalone_of_inactive ha]

theorem exec_crcByte_of_inactive {s : State} (b : Byte) (ha : active s.phase = false) :
    exec (.crcByte b) s = .next (finishOk { s with crc := crcByte s.crc b }) := by
  rw [exec_crcByte, standalone_of_inactive ha]

theorem exec_crcWord_of_inactive {s : State} (ha : active s.phase = false) :
    exec .crcWord s = .next (finishOk { s with crc := crcSeq s.crc (streamBytes s.data) }) := by
  rw [exec_crcWord, standalone_of_inactive ha]

theorem exec_crcCheck_of_eq {s : State} (ha : active s.phase = false) (h : s.crc ^^^ 0xFFFFFFFF = s.data) :
    exec .crcCheck s = .next (finishOk { s with scrc := s.data }) := by
  rw [exec_crcCheck, standalone_of_inactive ha, if_pos h]

theorem exec_crcCheck_of_ne {s : State} (ha : active s.phase = false) (h : s.crc ^^^ 0xFFFFFFFF ≠ s.data) :
    exec .crcCheck s = .next (raiseCode .invalidCrc { s with scrc := s.data }) := by
  rw [exec_crcCheck, standalone_of_inactive ha, if_neg h]

/-- A format B opcode with a reserved bit set raises 6 (R72, R73). -/
theorem transact_cmd_of_formatB_reserved {op : BitVec 8} {imm : BitVec 24} (s : State) (hop : op ∈ opcodesB)
    (himm : immReserved imm ≠ 0) : transact (.write 0x00 (op ++ imm)) s = .next (raiseCode .illegalCommand s) :=
  wordsAreLegalOrChangeOnlyResultAndErr.1 op imm s (.inr (.inr ⟨hop, himm⟩))

/-- The word of CRC_BYTE, with its reserved bits written out (R71, R72). -/
theorem encode_crcByte (b : Byte) : encode (.crcByte b) = 0x020000#24 ++ b :=
  append_zeroExtend_byte 0x02 b

theorem decode_crcByte (b : Byte) : decode (0x020000#24 ++ b) = .ok (.crcByte b) := by
  rw [← encode_crcByte]
  exact decode_encode rfl

/-- Settles O15: the phase check decides between the seed and the refusal, and the seed is the final XOR's own word. -/
theorem crcInitSeedsTheChecksum : Obligations.CrcInitSeedsTheChecksum := by
  unfold Obligations.CrcInitSeedsTheChecksum
  intro s imm
  have hword : decode 0x01000000 = .ok .crcInit := decode_encode (i := .crcInit) rfl
  exact ⟨fun ha => ⟨exec_crcInit_of_inactive ha, BitVec.xor_self⟩,
    standaloneCommandsRefusedDuringAFrame .crcInit s (by decide), transact_cmd_of_decode s hword,
    transact_cmd_of_formatZ_immediate s (by decide)⟩

/-- Settles O16: the byte step in its table form; format B decides the word. -/
theorem crcByteUpdatesTheChecksum : Obligations.CrcByteUpdatesTheChecksum := by
  unfold Obligations.CrcByteUpdatesTheChecksum
  intro s b imm
  have hop : opcodeOf (.crcByte b) ∈ [0x01#8, 0x02, 0x03, 0x04, 0x10, 0x11, 0x20] := by simp [opcodeOf]
  refine ⟨fun ha => ?_, standaloneCommandsRefusedDuringAFrame _ s hop, transact_cmd_of_decode s (decode_crcByte b),
    transact_cmd_of_formatB_reserved s (by decide)⟩
  rw [exec_crcByte_of_inactive b ha, crcByte_eq_table]
  rfl

/-- Settles O17: the sequence of DATA's stream bytes, whose four steps are the nested ones. -/
theorem crcWordUpdatesByFourBytes : Obligations.CrcWordUpdatesByFourBytes := by
  unfold Obligations.CrcWordUpdatesByFourBytes
  intro s imm
  have hword : decode 0x03000000 = .ok .crcWord := decode_encode (i := .crcWord) rfl
  exact ⟨exec_crcWord_of_inactive, standaloneCommandsRefusedDuringAFrame .crcWord s (by decide),
    transact_cmd_of_decode s hword, transact_cmd_of_formatZ_immediate s (by decide)⟩

/-- Settles O18: the phase check, then the comparison's two verdicts. -/
theorem crcCheckComparesWithData : Obligations.CrcCheckComparesWithData := by
  unfold Obligations.CrcCheckComparesWithData
  intro s imm
  have hword : decode 0x04000000 = .ok .crcCheck := decode_encode (i := .crcCheck) rfl
  exact ⟨exec_crcCheck_of_eq, exec_crcCheck_of_ne, standaloneCommandsRefusedDuringAFrame .crcCheck s (by decide),
    transact_cmd_of_decode s hword, transact_cmd_of_formatZ_immediate s (by decide)⟩

/-! ### Feeding the checksum (R121, R128, R130) -/

/-- DATA after pieces are fed: the last word's, or as before when there is none. -/
def fedData : List Piece → Word → Word
  | [], d => d
  | .byte _ :: ps, d => fedData ps d
  | .word w :: ps, _ => fedData ps w

/-- RESULT after pieces are fed: 0 once there is one, each command having answered 0. -/
def fedResult : List Piece → ResultCode → ResultCode
  | [], r => r
  | _ :: _, _ => .ok

/-- The state after pieces are fed to the checksum. -/
def crcFed (ps : List Piece) (s : State) : State :=
  { s with crc := crcSeq s.crc (ps.flatMap Piece.bytes), data := fedData ps s.data, result := fedResult ps s.result }

theorem runTxns_append_of_next {ts : List Txn} {s t : State} (us : List Txn) (h : runTxns ts s = .next t) :
    runTxns (ts ++ us) s = runTxns us t := by
  induction ts generalizing s with
  | nil =>
    cases h
    rfl
  | cons x ts ih =>
    obtain ⟨v, hx, hts⟩ := runTxns_cons h
    rw [List.cons_append, runTxns_cons_of_transact _ hx, ih hts]

/-- A command's own transaction is the command executed (R75, R77). -/
theorem runTxns_commandTxn {i : Instr} {s t : State} (hwf : i.wellFormed = true) (h : exec i s = .next t) :
    runTxns [commandTxn i] s = .next t := by
  have hcmd : transact (commandTxn i) s = .next t := (transact_cmd_of_decode s (decode_encode hwf)).trans h
  rw [runTxns_cons_of_transact _ hcmd, runTxns]

theorem runTxns_crcTxns (p : Piece) {s : State} (ha : active s.phase = false) :
    runTxns p.crcTxns s = .next (crcFed [p] s) := by
  cases p with
  | byte b => exact runTxns_commandTxn rfl (exec_crcByte_of_inactive b ha)
  | word w => exact runTxns_dataCommandTxns rfl (exec_crcWord_of_inactive (s := writeData w s) ha)

theorem crcFed_cons (p : Piece) (ps : List Piece) (s : State) : crcFed ps (crcFed [p] s) = crcFed (p :: ps) s := by
  have hcrc : crcSeq (crcSeq s.crc ([p].flatMap Piece.bytes)) (ps.flatMap Piece.bytes)
      = crcSeq s.crc ((p :: ps).flatMap Piece.bytes) := by
    rw [← crcSeq_append, List.flatMap_singleton, List.flatMap_cons]
  have hdata : fedData ps (fedData [p] s.data) = fedData (p :: ps) s.data := by cases p <;> rfl
  have hresult : fedResult ps (fedResult [p] s.result) = fedResult (p :: ps) s.result := by cases ps <;> rfl
  simp only [crcFed, hcrc, hdata, hresult]

/-- What feeding pieces to the checksum does (R121): CRC as if fed byte by byte, besides only DATA and RESULT. -/
theorem runTxns_flatMap_crcTxns (ps : List Piece) {s : State} (ha : active s.phase = false) :
    runTxns (ps.flatMap Piece.crcTxns) s = .next (crcFed ps s) := by
  induction ps generalizing s with
  | nil => rfl
  | cons p ps ih =>
    rw [List.flatMap_cons, runTxns_append_of_next _ (runTxns_crcTxns p ha), ih (s := crcFed [p] s) ha, crcFed_cons]

/-- Settles O21: the state after the pieces has CRC, DATA and RESULT written. -/
theorem checksumDoesNotDependOnTheSplit : Obligations.ChecksumDoesNotDependOnTheSplit := by
  unfold Obligations.ChecksumDoesNotDependOnTheSplit
  intro ps s ha
  refine ⟨fedData ps s.data, fedResult ps s.result, runTxns_flatMap_crcTxns ps ha, ?empty, ?nonempty⟩
  case empty =>
    rintro rfl
    exact ⟨rfl, rfl⟩
  case nonempty =>
    intro hps
    cases ps with
    | nil => exact absurd rfl hps
    | cons p ps => rfl

/-- Settles O22: the word and the four bytes are two splits of one message, and only the word writes DATA. -/
theorem crcWordIsFourCrcBytes : Obligations.CrcWordIsFourCrcBytes := by
  unfold Obligations.CrcWordIsFourCrcBytes
  intro s b0 b1 b2 b3 ha
  have hword := runTxns_flatMap_crcTxns [.word (be32 b0 b1 b2 b3)] ha
  have hbytes := runTxns_flatMap_crcTxns [.byte b0, .byte b1, .byte b2, .byte b3] ha
  have hmap : [b0, b1, b2, b3].map (fun b => Txn.write 0x00 (0x020000#24 ++ b))
      = [Piece.byte b0, .byte b1, .byte b2, .byte b3].flatMap Piece.crcTxns := by
    simp only [← encode_crcByte]
    rfl
  have hsplit : [Piece.byte b0, .byte b1, .byte b2, .byte b3].flatMap Piece.bytes
      = [Piece.word (be32 b0 b1 b2 b3)].flatMap Piece.bytes :=
    (streamBytes_be32 b0 b1 b2 b3).symm
  refine ⟨_, _, hword, by rw [hmap, hbytes], ?_⟩
  rw [crcFed, hsplit]
  rfl

/-- The pieces `crc.feed` and `frame.feed` make of a message: whole groups of 4 as words, the rest as bytes (R78). -/
def feedPieces : List Byte → List Piece
  | b0 :: b1 :: b2 :: b3 :: rest => .word (be32 b0 b1 b2 b3) :: feedPieces rest
  | rest => rest.map .byte

theorem feedPieces_flatMap_bytes (d : List Byte) : (feedPieces d).flatMap Piece.bytes = d := by
  induction d using feedPieces.induct with
  | case1 b0 b1 b2 b3 rest ih =>
    rw [feedPieces, List.flatMap_cons, ih, Piece.bytes, streamBytes_be32]
    rfl
  | case2 rest hrest =>
    rw [feedPieces.eq_2 _ hrest, List.flatMap_map]
    exact List.flatMap_singleton' rest

theorem feedPieces_flatMap_crcTxns (d : List Byte) :
    (feedPieces d).flatMap Piece.crcTxns = feedTxns .crcWord .crcByte d := by
  induction d using feedPieces.induct with
  | case1 b0 b1 b2 b3 rest ih => rw [feedPieces, List.flatMap_cons, ih, feedTxns, Piece.crcTxns]
  | case2 rest hrest =>
    rw [feedPieces.eq_2 _ hrest, feedTxns.eq_2 _ _ _ hrest, List.flatMap_map, List.map_eq_flatMap]
    rfl

/-- Settles O23: the type is one more word ahead of the payload's pieces, fed from the seed. -/
theorem chunkNewChecksum : Obligations.ChunkNewChecksum := by
  unfold Obligations.ChunkNewChecksum
  intro t d s ha
  have hseed : runTxns [commandTxn .crcInit] s = .next (finishOk { s with crc := 0xFFFFFFFF }) :=
    runTxns_commandTxn rfl (exec_crcInit_of_inactive ha)
  have hfeed := runTxns_flatMap_crcTxns (.word t :: feedPieces d) (s := finishOk { s with crc := 0xFFFFFFFF }) ha
  rw [List.flatMap_cons, feedPieces_flatMap_crcTxns] at hfeed
  refine ⟨_, _, rfl, (runTxns_append_of_next _ hseed).trans hfeed, ?_, rfl, rfl⟩
  have hbytes : (Piece.word t :: feedPieces d).flatMap Piece.bytes = streamBytes t ++ d := by
    rw [List.flatMap_cons, feedPieces_flatMap_bytes, Piece.bytes]
  rw [← hbytes]
  rfl

end Sys2Proof.Machine

namespace Sys2Proof.Machine

/-! ### LEN_PARSE's outcomes (R142) -/

theorem exec_lenParse_of_short {s : State} (ha : active s.phase = false) (h : s.bufLen.toNat < 12) :
    exec .lenParse s = .next (raiseCode .invalidInput s) := by
  rw [exec_lenParse, standalone_of_inactive ha, if_pos h]

theorem exec_lenParse_of_inconsistent {s : State} (ha : active s.phase = false) (h12 : 12 ≤ s.bufLen.toNat)
    (h : LengthInconsistent s s.data) :
    exec .lenParse s = .next (raiseCode .invalidChunkLength { s with len := s.data }) := by
  rw [exec_lenParse, standalone_of_inactive ha, if_neg (Nat.not_lt.2 h12), if_pos h]

theorem exec_lenParse_of_consistent {s : State} (ha : active s.phase = false) (h12 : 12 ≤ s.bufLen.toNat)
    (h : ¬ LengthInconsistent s s.data) :
    exec .lenParse s = .next (finishOk { s with len := s.data, plen := s.bufLen - 12 }) := by
  rw [exec_lenParse, standalone_of_inactive ha, if_neg (Nat.not_lt.2 h12), if_neg h]

/-- Settles O30: the phase check, then LEN_PARSE's two tests in order; the format Z immediate decides the word. -/
theorem lenParseChecksTheDeclaredLength : Obligations.LenParseChecksTheDeclaredLength := by
  unfold Obligations.LenParseChecksTheDeclaredLength
  intro s imm inconsistent
  have hword : decode 0x20000000 = .ok .lenParse := decode_encode (i := .lenParse) rfl
  exact ⟨standaloneCommandsRefusedDuringAFrame .lenParse s (by decide), exec_lenParse_of_short,
    exec_lenParse_of_inconsistent, exec_lenParse_of_consistent, transact_cmd_of_decode s hword,
    transact_cmd_of_formatZ_immediate s (by decide)⟩

/-! ### The code as a function of the operands (R143, R144) -/

/-- The code LEN_PARSE ends with when no frame is active: of BUF_LEN, DATA and LENPOL alone (R142). -/
def lenParseCode (L D : Word) (pol : Policy) : ResultCode :=
  if L.toNat < 12 then .invalidInput
  else if lengthCheck L.toNat D.toNat pol = none then .invalidChunkLength
  else .ok

/-- What LEN_PARSE leaves when no frame is active: its code, and on success LEN and PLEN. -/
theorem exec_lenParse_code {s : State} (ha : active s.phase = false) :
    ∃ t, exec .lenParse s = .next t ∧ t.result = lenParseCode s.bufLen s.data s.lenpol
      ∧ (t.result = .ok → t.len = s.data ∧ t.plen = s.bufLen - 12) := by
  unfold lenParseCode
  by_cases h12 : s.bufLen.toNat < 12
  · exact ⟨_, exec_lenParse_of_short ha h12, by simp [h12], by simp⟩
  · have hcheck : lengthCheck s.bufLen.toNat s.data.toNat s.lenpol = none ↔ LengthInconsistent s s.data :=
      lengthCheck_eq_none_iff ..
    rw [if_neg h12]
    by_cases h : LengthInconsistent s s.data
    · exact ⟨_, exec_lenParse_of_inconsistent ha (Nat.not_lt.1 h12) h, (if_pos (hcheck.2 h)).symm, by simp⟩
    · exact ⟨_, exec_lenParse_of_consistent ha (Nat.not_lt.1 h12) h, (if_neg (mt hcheck.1 h)).symm,
        fun _ => ⟨rfl, rfl⟩⟩

/-- Code 1 depends on BUF_LEN alone (R144). -/
theorem lenParseCode_eq_invalidInput_iff (L D : Word) (pol : Policy) :
    lenParseCode L D pol = .invalidInput ↔ L.toNat < 12 := by
  unfold lenParseCode
  split_ifs with h12 <;> simp [h12]

theorem lenParseCode_eq_ok_iff (L D : Word) (pol : Policy) :
    lenParseCode L D pol = .ok ↔ 12 ≤ L.toNat ∧ D.toNat + 12 ≤ L.toNat ∧ (pol = .strict → D.toNat + 12 = L.toNat) := by
  unfold lenParseCode
  by_cases h12 : L.toNat < 12
  · simp [h12]
  · rw [if_neg h12]
    obtain ⟨hfail, hgt | ⟨rfl, hne⟩⟩ | ⟨hpass, hle, heq⟩ := lengthCheck_cases L.toNat D.toNat pol
    · simp [hfail, Nat.not_le.2 hgt]
    · simp [hfail, hne]
    · simp only [hpass, reduceCtorEq, if_false, true_iff]
      exact ⟨Nat.not_lt.1 h12, hle, heq⟩

/-- STRICT's acceptance set (R143). -/
theorem lenParseCode_strict_eq_ok_iff (L D : Word) :
    lenParseCode L D .strict = .ok ↔ 12 ≤ L.toNat ∧ D.toNat = L.toNat - 12 := by
  rw [lenParseCode_eq_ok_iff]
  constructor
  · rintro ⟨h12, -, heq⟩
    have := heq rfl
    omega
  · rintro ⟨h12, heq⟩
    omega

/-- BOUND's acceptance set (R143). -/
theorem lenParseCode_bound_eq_ok_iff (L D : Word) :
    lenParseCode L D .bound = .ok ↔ 12 ≤ L.toNat ∧ D.toNat ≤ L.toNat - 12 := by
  rw [lenParseCode_eq_ok_iff]
  simp only [reduceCtorEq, false_imp_iff, and_true]
  omega

/-- BOUND accepts what either policy accepts (R143). -/
theorem lenParseCode_bound_of_ok {L D : Word} {pol : Policy} (h : lenParseCode L D pol = .ok) :
    lenParseCode L D .bound = .ok := by
  obtain ⟨h12, hle, -⟩ := (lenParseCode_eq_ok_iff L D pol).1 h
  exact (lenParseCode_eq_ok_iff L D .bound).2 ⟨h12, hle, nofun⟩

/-- Settles O31: the acceptance sets are those of the code, and every pass gives BUF_LEN − 12 under either policy. -/
theorem lenParseAcceptanceSets : Obligations.LenParseAcceptanceSets := by
  unfold Obligations.LenParseAcceptanceSets
  intro s ha
  obtain ⟨t, ht, hcode, hregs⟩ := exec_lenParse_code ha
  refine ⟨t, ht, ?strict, ?bound, ?plen⟩
  case strict =>
    intro hp
    rw [hcode, hp, lenParseCode_strict_eq_ok_iff]
  case bound =>
    intro hp
    rw [hcode, hp, lenParseCode_bound_eq_ok_iff]
  case plen =>
    intro hok
    obtain ⟨-, hplen⟩ := hregs hok
    have hok' := hcode.symm.trans hok
    have h12 : 12 ≤ s.bufLen.toNat := ((lenParseCode_eq_ok_iff ..).1 hok').1
    have hsub : t.plen.toNat = s.bufLen.toNat - 12 := by
      rw [hplen]
      exact BitVec.toNat_sub_of_le h12
    obtain ⟨u, hu, hucode, huregs⟩ := exec_lenParse_code (s := { s with lenpol := .bound }) ha
    have huok : u.result = .ok := hucode.trans (lenParseCode_bound_of_ok hok')
    refine ⟨hsub, ?_, u, hu, huok, (huregs huok).2.trans hplen.symm⟩
    have := s.bufLen.isLt
    rw [hsub, Config.maxPayload]
    omega

/-- Settles O32: code, LEN and PLEN are functions of the operands, and code 1 is a test of BUF_LEN. -/
theorem lenParseDependsOnItsOperandsOnly : Obligations.LenParseDependsOnItsOperandsOnly := by
  unfold Obligations.LenParseDependsOnItsOperandsOnly
  intro s s' ha ha' hL
  obtain ⟨t, ht, hcode, hregs⟩ := exec_lenParse_code ha
  obtain ⟨t', ht', hcode', hregs'⟩ := exec_lenParse_code ha'
  refine ⟨t, t', ht, ht', ?short, fun hD hp => ?outcome⟩
  case short => rw [hcode, hcode', lenParseCode_eq_invalidInput_iff, lenParseCode_eq_invalidInput_iff, hL]
  case outcome =>
    have hresult : t.result = t'.result := by rw [hcode, hcode', hL, hD, hp]
    refine ⟨hresult, fun hok => ?_⟩
    obtain ⟨hlen, hplen⟩ := hregs hok
    obtain ⟨hlen', hplen'⟩ := hregs' (hresult.symm.trans hok)
    exact ⟨by rw [hlen, hlen', hD], by rw [hplen, hplen', hL]⟩

end Sys2Proof.Machine

namespace Sys2Proof.Machine

/-! ### FRAME_START and FRAME_ABORT (R153, R156) -/

/-- FRAME_START's state when BUF_LEN can hold a chunk (R153). -/
def frameStarted (s : State) : State :=
  finishOk { s with pos := 0, acc := 0, len := 0, plen := 0, scrc := 0, crc := 0xFFFFFFFF, fresult := .ok,
                    phase := .len }

theorem exec_frameStart_of_short {s : State} (h : s.bufLen.toNat < 12) :
    exec .frameStart s
      = .next (raiseCode .invalidInput { s with pos := 0, acc := 0, len := 0, plen := 0, scrc := 0, crc := 0xFFFFFFFF,
                                                phase := .error, fresult := .invalidInput }) := by
  rw [exec_frameStart, if_pos h]

theorem exec_frameStart_of_fits {s : State} (h : 12 ≤ s.bufLen.toNat) :
    exec .frameStart s = .next (frameStarted s) := by
  rw [exec_frameStart, if_neg (Nat.not_lt.2 h), frameStarted]

/-- Settles O33: BUF_LEN decides between the two states; the format Z immediate decides the word. -/
theorem frameStartBeginsAFrame : Obligations.FrameStartBeginsAFrame := by
  unfold Obligations.FrameStartBeginsAFrame
  intro s imm
  have hword : decode 0x30000000 = .ok .frameStart := decode_encode (i := .frameStart) rfl
  exact ⟨exec_frameStart_of_fits, exec_frameStart_of_short, transact_cmd_of_decode s hword,
    transact_cmd_of_formatZ_immediate s (by decide)⟩

/-- Settles O34: the command has one effect, and the format Z immediate decides the word. -/
theorem frameAbortGoesIdle : Obligations.FrameAbortGoesIdle := by
  unfold Obligations.FrameAbortGoesIdle
  intro s imm
  have hword : decode 0x33000000 = .ok .frameAbort := decode_encode (i := .frameAbort) rfl
  exact ⟨exec_frameAbort s, transact_cmd_of_decode s hword, transact_cmd_of_formatZ_immediate s (by decide)⟩

/-! ### The two verdicts of a frame, one equation an outcome (R152) -/

theorem frameLength_of_inconsistent {s : State} (h : LengthInconsistent s s.acc) :
    frameLength s
      = ({ s with len := s.acc, phase := .error, fresult := .invalidChunkLength }, some .invalidChunkLength) := by
  obtain ⟨-, he⟩ | ⟨hn, -⟩ := frameLength_cases s
  · exact he
  · exact absurd h hn

theorem frameLength_of_consistent {s : State} (h : ¬ LengthInconsistent s s.acc) :
    frameLength s = ({ s with len := s.acc, plen := s.bufLen - 12, phase := .type }, none) := by
  obtain ⟨hi, -⟩ | ⟨-, -, he⟩ := frameLength_cases s
  · exact absurd hi h
  · exact he

theorem frameVerdict_of_eq {s : State} (h : s.crc ^^^ 0xFFFFFFFF = s.acc) :
    frameVerdict s = ({ s with scrc := s.acc, phase := .done }, none) := by
  obtain ⟨-, he⟩ | ⟨hn, -⟩ := frameVerdict_cases s
  · exact he
  · exact absurd h hn

theorem frameVerdict_of_ne {s : State} (h : s.crc ^^^ 0xFFFFFFFF ≠ s.acc) :
    frameVerdict s = ({ s with scrc := s.acc, phase := .error, fresult := .invalidCrc }, some .invalidCrc) := by
  obtain ⟨he, -⟩ | ⟨-, he⟩ := frameVerdict_cases s
  · exact absurd he h
  · exact he

/-! ### FRAME_BYTE and FRAME_WORD by their phase check (R154, R155) -/

theorem exec_frameByte_of_active {s : State} (b : Byte) (ha : active s.phase = true) :
    exec (.frameByte b) s = finishWith (frameStep b s) := by
  rw [exec_frameByte, if_pos ha]

theorem exec_frameByte_of_inactive {s : State} (b : Byte) (ha : active s.phase = false) :
    exec (.frameByte b) s = .next (raiseCode .sequenceError s) := by
  rw [exec_frameByte, ha]
  rfl

theorem exec_frameWord_of_room {s : State} (ha : active s.phase = true) (h : s.pos.toNat + 4 ≤ s.bufLen.toNat) :
    exec .frameWord s = finishWith (frameSteps (streamBytes s.data) s) := by
  have hroom : ¬ (active s.phase = false ∨ s.bufLen.toNat - s.pos.toNat < 4) := by
    simp only [ha, reduceCtorEq, false_or]
    omega
  rw [exec_frameWord, if_neg hroom]

theorem exec_frameWord_refused {s : State} (h : active s.phase = false ∨ s.bufLen.toNat < s.pos.toNat + 4) :
    exec .frameWord s = .next (raiseCode .sequenceError s) := by
  have hrefused : active s.phase = false ∨ s.bufLen.toNat - s.pos.toNat < 4 := h.imp_right (fun h => by omega)
  rw [exec_frameWord, if_pos hrefused]

/-- The word of FRAME_BYTE, with its reserved bits written out (R71, R72). -/
theorem encode_frameByte (b : Byte) : encode (.frameByte b) = 0x310000#24 ++ b :=
  append_zeroExtend_byte 0x31 b

theorem decode_frameByte (b : Byte) : decode (0x310000#24 ++ b) = .ok (.frameByte b) := by
  rw [← encode_frameByte]
  exact decode_encode rfl

/-- Settles O39: both refusals change RESULT and ERR alone; formats B and Z decide the words. -/
theorem frameBytesRefusedOutOfSequence : Obligations.FrameBytesRefusedOutOfSequence := by
  unfold Obligations.FrameBytesRefusedOutOfSequence
  intro s b imm
  have hword : decode 0x32000000 = .ok .frameWord := decode_encode (i := .frameWord) rfl
  exact ⟨exec_frameByte_of_inactive b, exec_frameWord_refused, transact_cmd_of_decode s (decode_frameByte b),
    transact_cmd_of_decode s hword, transact_cmd_of_formatB_reserved s (by decide),
    transact_cmd_of_formatZ_immediate s (by decide)⟩

/-! ### FRAME_BYTE, phase by phase (R152, R154) -/

/-- Settles O35: the byte's step is inside the field, or ends it with one of the length check's two outcomes. -/
theorem frameByteInTheLengthField : Obligations.FrameByteInTheLengthField := by
  unfold Obligations.FrameByteInTheLengthField
  intro s b hp field inconsistent
  rw [exec_frameByte_of_active b ((active_iff _).2 (.inl hp))]
  have hlast (h3 : s.pos = 3) : frameStep b s = frameLength { s with pos := 4, acc := shiftIn s.acc b } := by
    rw [frameStep_len_last b s hp (by rw [h3]; rfl), h3]
    rfl
  refine ⟨fun h => ?inside, fun h hi => ?fail, fun h hi => ?pass⟩
  case inside =>
    rw [frameStep_len b s hp (mt (toNat_eq_iff (by decide)).1 h)]
    rfl
  case fail =>
    have hi' : LengthInconsistent { s with pos := 4, acc := shiftIn s.acc b } (shiftIn s.acc b) := hi
    rw [hlast h, frameLength_of_inconsistent hi']
    rfl
  case pass =>
    have hi' : ¬ LengthInconsistent { s with pos := 4, acc := shiftIn s.acc b } (shiftIn s.acc b) := hi
    rw [hlast h, frameLength_of_consistent hi']
    rfl

/-- A register is 0 as a word exactly when it is 0 as a number. -/
theorem word_eq_zero_iff (w : Word) : w = 0 ↔ w.toNat = 0 :=
  (toNat_eq_iff (by decide)).symm

/-- Settles O36: the byte's step is inside the field or ends it. -/
theorem frameByteInTheTypeField : Obligations.FrameByteInTheTypeField := by
  unfold Obligations.FrameByteInTheTypeField
  intro s b hp field
  rw [exec_frameByte_of_active b ((active_iff _).2 (.inr (.inl hp)))]
  refine ⟨fun h => ?inside, fun h => ?last⟩
  case inside =>
    rw [frameStep_type b s hp (mt (toNat_eq_iff (by decide)).1 h)]
    rfl
  case last =>
    rw [frameStep_type_last b s hp (by rw [h]; rfl), h]
    simp only [word_eq_zero_iff]
    rfl

/-- Settles O37: a payload byte has one effect, and its position decides the next phase. -/
theorem frameByteInThePayload : Obligations.FrameByteInThePayload := by
  unfold Obligations.FrameByteInThePayload
  intro s b hp
  have hend : s.pos.toNat + 1 = 8 + s.plen.toNat ↔ s.pos.toNat = 7 + s.plen.toNat := by omega
  rw [exec_frameByte_of_active b ((active_iff _).2 (.inr (.inr (.inl hp)))), frameStep_payload b s hp]
  simp only [hend]
  rfl

/-- Settles O38: the byte's step is inside the field, or ends it with one of the comparison's two outcomes. -/
theorem frameByteInTheStoredCrc : Obligations.FrameByteInTheStoredCrc := by
  unfold Obligations.FrameByteInTheStoredCrc
  intro s b hp field
  rw [exec_frameByte_of_active b ((active_iff _).2 (.inr (.inr (.inr hp))))]
  have hlast (h : s.pos.toNat = 11 + s.plen.toNat) :
      frameStep b s = frameVerdict { s with pos := s.pos + 1, acc := field } :=
    frameStep_crcf_last b s hp (by omega)
  refine ⟨fun h => ?inside, fun h hc => ?done, fun h hc => ?fail⟩
  case inside =>
    rw [frameStep_crcf b s hp (by omega)]
    rfl
  case done =>
    rw [hlast h, frameVerdict_of_eq hc]
    rfl
  case fail =>
    rw [hlast h, frameVerdict_of_ne hc]
    rfl

/-! ### FRAME_WORD as a whole field (R60, R155) -/

theorem frameSteps_lengthWord (w : Word) {s : State} (hp : s.phase = .len) (h0 : s.pos = 0) :
    frameSteps (streamBytes w) s = frameLength { s with pos := 4, acc := w } := by
  rw [streamBytes, frameSteps_length s _ _ _ _ hp h0, be32_streamBytes]

theorem frameSteps_typeWord (w : Word) {s : State} (hp : s.phase = .type) (h4 : s.pos = 4) :
    frameSteps (streamBytes w) s
      = ({ s with pos := 8, acc := w, chunkType := w, crc := crcSeq s.crc (streamBytes w),
                  phase := if s.plen = 0 then .crcf else .payload }, none) := by
  rw [streamBytes, frameSteps_type s _ _ _ _ hp h4, be32_streamBytes]

theorem frameSteps_crcWord (w : Word) {s : State} (hp : s.phase = .crcf) (h8 : s.pos.toNat = 8 + s.plen.toNat)
    (hlt : 12 + s.plen.toNat < 2 ^ 32) :
    frameSteps (streamBytes w) s = frameVerdict { s with pos := s.pos + 4, acc := w } := by
  rw [streamBytes, frameSteps_crcf s _ _ _ _ hp h8 hlt, be32_streamBytes]

theorem add_one_add_ofNat (p : Word) (n : Nat) : p + 1 + BitVec.ofNat 32 n = p + BitVec.ofNat 32 (n + 1) := by
  apply BitVec.eq_of_toNat_eq
  simp
  omega

/-- Payload bytes that do not go past the payload's end: they enter the checksum, and the last one ends it (R152). -/
theorem frameSteps_within_payload (d : List Byte) {s : State} (hp : s.phase = .payload)
    (hin : s.pos.toNat < 8 + s.plen.toNat) (hd : s.pos.toNat + d.length ≤ 8 + s.plen.toNat)
    (hlt : s.pos.toNat + d.length < 2 ^ 32) :
    frameSteps d s
      = ({ s with pos := s.pos + BitVec.ofNat 32 d.length, crc := crcSeq s.crc d,
                  phase := if s.pos.toNat + d.length = 8 + s.plen.toNat then .crcf else .payload }, none) := by
  induction d generalizing s with
  | nil => simp [frameSteps, ← hp, Nat.ne_of_lt hin]
  | cons b d ih =>
    rw [List.length_cons] at hd hlt
    have hpos : (s.pos + 1).toNat = s.pos.toNat + 1 := by simp; omega
    rw [frameSteps_cons_none (frameStep_payload b s hp)]
    by_cases hend : s.pos.toNat + 1 = 8 + s.plen.toNat
    · obtain rfl : d = [] := List.length_eq_zero_iff.1 (by omega)
      rfl
    · have hcount : s.pos.toNat + 1 + d.length = s.pos.toNat + (d.length + 1) := by omega
      rw [if_neg hend, ih rfl (by simp only [hpos]; omega) (by simp only [hpos]; omega) (by simp only [hpos]; omega)]
      simp only [add_one_add_ofNat, hpos, hcount, List.length_cons, crcSeq_cons]

/-- Settles O40: the word is the 4 length bytes, which end in one of the length check's two outcomes. -/
theorem frameWordIsTheLengthField : Obligations.FrameWordIsTheLengthField := by
  unfold Obligations.FrameWordIsTheLengthField
  intro s hp h0 hroom inconsistent
  have hword : exec .frameWord s = finishWith (frameLength { s with pos := 4, acc := s.data }) := by
    rw [exec_frameWord_of_room ((active_iff _).2 (.inl hp)) (by rw [h0]; simpa using hroom),
      frameSteps_lengthWord s.data hp h0]
  rw [hword]
  refine ⟨fun hi => ?fail, fun hi => ?pass⟩
  case fail =>
    have hi' : LengthInconsistent { s with pos := 4, acc := s.data } s.data := hi
    rw [frameLength_of_inconsistent hi']
    rfl
  case pass =>
    have hi' : ¬ LengthInconsistent { s with pos := 4, acc := s.data } s.data := hi
    rw [frameLength_of_consistent hi']
    rfl

/-- Settles O41: the word is the 4 type bytes. -/
theorem frameWordIsTheTypeField : Obligations.FrameWordIsTheTypeField := by
  unfold Obligations.FrameWordIsTheTypeField
  intro s hp h4 hroom
  rw [exec_frameWord_of_room ((active_iff _).2 (.inr (.inl hp))) (by rw [h4]; simpa using hroom),
    frameSteps_typeWord s.data hp h4]
  simp only [word_eq_zero_iff]
  rfl

/-- Settles O42: the word is 4 payload bytes that stay within the payload. -/
theorem frameWordInThePayload : Obligations.FrameWordInThePayload := by
  unfold Obligations.FrameWordInThePayload
  intro s hp hin hroom
  have hlt := s.bufLen.isLt
  rw [exec_frameWord_of_room ((active_iff _).2 (.inr (.inr (.inl hp)))) hroom,
    frameSteps_within_payload (streamBytes s.data) hp (by omega) hin (by rw [length_streamBytes]; omega)]
  rfl

/-- Settles O43: the word is the 4 stored-CRC bytes, which end in one of the comparison's two outcomes. -/
theorem frameWordIsTheStoredCrc : Obligations.FrameWordIsTheStoredCrc := by
  unfold Obligations.FrameWordIsTheStoredCrc
  intro s hp h8 hroom
  have hlt := s.bufLen.isLt
  have hword : exec .frameWord s = finishWith (frameVerdict { s with pos := s.pos + 4, acc := s.data }) := by
    rw [exec_frameWord_of_room ((active_iff _).2 (.inr (.inr (.inr hp)))) hroom,
      frameSteps_crcWord s.data hp h8 (by omega)]
  rw [hword]
  refine ⟨fun hc => ?done, fun hc => ?fail⟩
  case done =>
    rw [frameVerdict_of_eq hc]
    rfl
  case fail =>
    rw [frameVerdict_of_ne hc]
    rfl

end Sys2Proof.Machine

namespace Sys2Proof.Machine

/-! ### Bytes a frame still has room for (R155, R158) -/

theorem frameInv_pos_lt {s : State} (hi : FrameInv s) (ha : active s.phase = true) : s.pos.toNat < s.bufLen.toNat := by
  obtain ⟨-, ⟨hframe, -⟩, -⟩ := hi
  exact (hframe ha).1

/-- Bytes that end short of BUF_LEN without an error leave the frame active. -/
theorem frameSteps_stays_active {bs : List Byte} {s t : State} (hi : FrameInv s) (ha : active s.phase = true)
    (hroom : s.pos.toNat + bs.length < s.bufLen.toNat) (h : frameSteps bs s = (t, none)) :
    FrameInv t ∧ active t.phase = true ∧ t.pos.toNat = s.pos.toNat + bs.length ∧ t.bufLen = s.bufLen := by
  obtain ⟨hinv, hok, -⟩ := frameSteps_inv bs s hi ha hroom.le
  obtain ⟨-, -, hbuf, -⟩ := frameSteps_frame bs s
  rw [h] at hinv hok hbuf
  obtain ⟨hpos, -, hact | ⟨-, hend, -⟩⟩ := hok rfl
  · exact ⟨hinv, hact, hpos, hbuf⟩
  · have hend' : t.pos = s.bufLen := hend
    rw [hend'] at hpos
    omega

theorem frameSteps_error_inactive {bs : List Byte} {s t : State} {c : ResultCode} (hi : FrameInv s)
    (ha : active s.phase = true) (hroom : s.pos.toNat + bs.length ≤ s.bufLen.toNat)
    (h : frameSteps bs s = (t, some c)) :
    active t.phase = false := by
  obtain ⟨-, -, herr⟩ := frameSteps_inv bs s hi ha hroom
  rw [h] at herr
  obtain ⟨hp, -⟩ := herr c rfl
  exact (inactive_iff _).2 (.inr (.inr hp))

/-- Frame bytes read and write neither DATA nor RESULT. -/
theorem frameSteps_withDataResult {bs : List Byte} {s t : State} {c : Option ResultCode} (d : Word) (r : ResultCode)
    (h : frameSteps bs s = (t, c)) :
    frameSteps bs { s with data := d, result := r } = ({ t with data := d, result := r }, c) := by
  obtain ⟨-, -, -, -, herr, hpending, hobserved⟩ := frameSteps_frame bs s
  have hside := frameSteps_withSide bs d r s.err s.pending s.observed s
  rw [h] at hside herr hpending hobserved
  refine hside.trans ?_
  rw [← herr, ← hpending, ← hobserved]

/-- The end of a command overwrites RESULT, so a RESULT of 0 before its bytes is nothing to it (R202). -/
theorem finishWith_frameSteps_finishOk (bs : List Byte) (s : State) :
    finishWith (frameSteps bs (finishOk s)) = finishWith (frameSteps bs s) := by
  obtain ⟨hdata, -⟩ := frameSteps_frame bs s
  rcases hr : frameSteps bs s with ⟨t, c⟩
  have hresult : frameSteps bs (finishOk s) = _ := frameSteps_withDataResult s.data .ok hr
  rw [hr] at hdata
  rw [hresult, ← hdata]
  cases c <;> rfl

/-! ### Feeding byte by byte (R155, R157) -/

theorem transact_commandTxn {i : Instr} (s : State) (hwf : i.wellFormed = true) :
    transact (commandTxn i) s = exec i s :=
  transact_cmd_of_decode s (decode_encode hwf)

theorem feedFrame_of_inactive {s : State} (bs : List Byte) (ha : active s.phase = false) :
    feedFrame bs s = .next s := by
  cases bs with
  | nil => rfl
  | cons b bs => simp [feedFrame, ha]

theorem feedFrame_cons {b : Byte} {bs : List Byte} {s t : State} (ha : active s.phase = true)
    (h : finishWith (frameStep b s) = .next t) : feedFrame (b :: bs) s = feedFrame bs t := by
  simp only [feedFrame, ha, transact_commandTxn s (i := .frameByte b) rfl, exec_frameByte_of_active b ha, h, if_true]

/-- Bytes fed one by one by FRAME_BYTE, no more than the frame has left, end as if one command had consumed them. -/
theorem feedFrame_eq_finishWith {bs : List Byte} {s : State} (hbs : bs ≠ []) (hi : FrameInv s)
    (ha : active s.phase = true) (hroom : s.pos.toNat + bs.length ≤ s.bufLen.toNat) :
    feedFrame bs s = finishWith (frameSteps bs s) := by
  induction bs generalizing s with
  | nil => exact absurd rfl hbs
  | cons b bs ih =>
    rw [List.length_cons] at hroom
    rcases hr : frameStep b s with ⟨t, _ | c⟩
    · rw [feedFrame_cons ha (congrArg finishWith hr), frameSteps_cons_none hr]
      by_cases hlast : bs = []
      · subst hlast
        rfl
      · have hmore : 0 < bs.length := List.length_pos_iff.2 hlast
        obtain ⟨hit, hat, hpos, hbuf⟩ := frameSteps_stays_active (bs := [b]) hi ha
          (by rw [List.length_singleton]; omega) ((frameSteps_singleton b s).trans hr)
        have hit' : FrameInv (finishOk t) := (frameKept_finishOk t).frameInv hit
        rw [List.length_singleton] at hpos
        rw [ih hlast hit' hat (by rw [finishOk_pos, finishOk_bufLen, hpos, hbuf]; omega),
          finishWith_frameSteps_finishOk]
    · have hend : active t.phase = false :=
        frameSteps_error_inactive (bs := [b]) hi ha (by rw [List.length_singleton]; omega)
          ((frameSteps_singleton b s).trans hr)
      rw [feedFrame_cons ha (congrArg finishWith hr), frameSteps_cons_some hr,
        feedFrame_of_inactive (s := raiseCode c t) bs hend, finishWith_some]

/-- Settles O44: both sides end as one command that consumes DATA's bytes. -/
theorem frameWordIsFrameBytesInOrder : Obligations.FrameWordIsFrameBytesInOrder := by
  unfold Obligations.FrameWordIsFrameBytesInOrder
  intro s hi ha hroom
  rw [exec_frameWord_of_room ha hroom,
    feedFrame_eq_finishWith (bs := streamBytes s.data) (List.cons_ne_nil _ _) hi ha hroom]

/-- Settles O45: without an error all 4 bytes are consumed; the errors and their positions are those of R152. -/
theorem frameWordConsumesFourBytesOrFails : Obligations.FrameWordConsumesFourBytesOrFails := by
  unfold Obligations.FrameWordConsumesFourBytesOrFails
  intro s hi ha hroom
  rw [exec_frameWord_of_room ha hroom]
  obtain ⟨-, hok, hfail⟩ := frameSteps_inv (streamBytes s.data) s hi ha hroom
  obtain ⟨hdata, hlenpol, hbuf, -, herr, -⟩ := frameSteps_frame (streamBytes s.data) s
  rcases hr : frameSteps (streamBytes s.data) s with ⟨t, _ | c⟩ <;> rw [hr] at hok hfail hdata hlenpol hbuf herr
  · obtain ⟨hpos, hfresult, -⟩ := hok rfl
    exact ⟨_, finishWith_none t, hdata, hlenpol, hbuf, .inl ⟨rfl, hpos, herr, hfresult⟩⟩
  · obtain ⟨-, hfresult, ⟨rfl, hpos⟩ | ⟨rfl, hpos⟩⟩ := hfail c rfl
    · exact ⟨_, finishWith_some t _, hdata, hlenpol, hbuf, .inr (.inl ⟨rfl, hpos, hfresult, rfl⟩)⟩
    · have hend : t.pos = t.bufLen := (BitVec.eq_of_toNat_eq hpos).trans hbuf.symm
      exact ⟨_, finishWith_some t _, hdata, hlenpol, hbuf, .inr (.inr ⟨rfl, hend, hfresult, rfl⟩)⟩

/-! ### Where a frame that is done ends (R158) -/

theorem frameSteps_done {bs : List Byte} {s t : State} (hi : FrameInv s) (ha : active s.phase = true)
    (hroom : s.pos.toNat + bs.length ≤ s.bufLen.toNat) (h : finishWith (frameSteps bs s) = .next t)
    (hd : t.phase = .done) : t.pos = s.bufLen ∧ s.bufLen.toNat = 12 + t.plen.toNat := by
  obtain ⟨-, hok, hfail⟩ := frameSteps_inv bs s hi ha hroom
  obtain ⟨hnone, rfl⟩ | ⟨c, hsome, rfl⟩ := finishWith_cases h
  · obtain ⟨-, -, hact | ⟨-, hpos, hlen⟩⟩ := hok hnone
    · rw [finishOk_phase] at hd
      simp [hd, active] at hact
    · exact ⟨hpos, hlen⟩
  · obtain ⟨hp, -⟩ := hfail c hsome
    rw [raiseCode_phase, hp] at hd
    cases hd

/-- Settles O55: of the commands only FRAME_BYTE and FRAME_WORD take an active frame to DONE, by bytes it has room
for. -/
theorem doneFrameEndsAtBufLen : Obligations.DoneFrameEndsAtBufLen := by
  unfold Obligations.DoneFrameEndsAtBufLen
  intro s t i hi ha h hd
  have hbuf := exec_bufLen h
  suffices hend : t.pos = s.bufLen ∧ s.bufLen.toNat = 12 + t.plen.toNat by
    obtain ⟨hpos, hlen⟩ := hend
    rw [hbuf]
    exact ⟨hpos, hlen, rfl⟩
  cases hf : isFrameCommand i with
  | false =>
    obtain ⟨u, hu, -, hk⟩ := exec_keeps_of_not_frame s hf
    cases h.symm.trans hu
    rw [← hk.phase, hd] at ha
    cases ha
  | true =>
    cases i with
    | nop | crcInit | crcByte _ | crcWord | crcCheck | typeBytes | typeText _ | lenParse | clrErr =>
      simp [isFrameCommand] at hf
    | frameStart =>
      rw [exec_frameStart] at h
      split_ifs at h <;> cases h <;> cases hd
    | frameAbort =>
      cases h
      cases hd
    | frameByte b =>
      rw [exec_frameByte_of_active b ha, ← frameSteps_singleton] at h
      exact frameSteps_done (bs := [b]) hi ha (frameInv_pos_lt hi ha) h hd
    | frameWord =>
      by_cases hroom : s.pos.toNat + 4 ≤ s.bufLen.toNat
      · rw [exec_frameWord_of_room ha hroom] at h
        exact frameSteps_done (bs := streamBytes s.data) hi ha hroom h hd
      · rw [exec_frameWord_refused (.inr (Nat.not_le.1 hroom))] at h
        cases h
        rw [raiseCode_phase] at hd
        simp [hd, active] at ha

/-! ### What moves the frame (R151, R204) -/

/-- The FRAME commands have opcodes 0x30 to 0x33 (R71). -/
theorem opcode_nibble_of_frameCommand {w : Word} {i : Instr} (h : decode w = .ok i) (hf : isFrameCommand i = true) :
    w.extractLsb' 28 4 = 0x3 := by
  obtain ⟨-, hop, -⟩ := fields_of_decodeFields h
  have hnibble : (opcodeOf i).extractLsb' 4 4 = 0x3 := by
    cases i with
    | nop | crcInit | crcByte _ | crcWord | crcCheck | typeBytes | typeText _ | lenParse | clrErr =>
      simp [isFrameCommand] at hf
    | frameStart | frameByte _ | frameWord | frameAbort => simp [opcodeOf]
  rw [← hnibble, hop, opcodeField]
  ext i hi
  simp [show 4 + i < 8 by omega, show 24 + (4 + i) = 28 + i by omega]

/-- Settles O48: every other transaction keeps the frame engine: a BUF_LEN write, a command that is no FRAME command,
and whatever reaches neither. -/
theorem onlyFrameCommandsMoveTheFrame : Obligations.OnlyFrameCommandsMoveTheFrame := by
  unfold Obligations.OnlyFrameCommandsMoveTheFrame
  intro x s u h hreset hcmd
  suffices hk : FrameKept s u from ⟨hk.phase, hk.fresult, hk.pos, hk.acc⟩
  obtain ⟨rfl, -⟩ | ⟨off, v, -, -, rfl⟩ | ⟨off, w, i, rfl, ho, hd, he⟩ | ⟨-, hk, -⟩ := transact_frame_cases h
  · exact absurd rfl hreset
  · exact frameKept_writeBufLen v s
  · cases hf : isFrameCommand i with
    | true => exact absurd (opcode_nibble_of_frameCommand hd hf) (hcmd off w rfl ho)
    | false =>
      obtain ⟨t, ht, -, hk⟩ := exec_keeps_of_not_frame s hf
      cases he.symm.trans ht
      exact hk
  · exact hk

end Sys2Proof.Machine

namespace Sys2Proof.Machine

/-! ### A frame's buffer by its fields (R61, R150, R157) -/

/-- A buffer of a frame: the length field, the message (type and payload) and the stored CRC (R61, R150). -/
def frameBuf (L : Word) (m : List Byte) (c : Word) : List Byte := streamBytes L ++ (m ++ streamBytes c)

@[simp] theorem length_frameBuf (L : Word) (m : List Byte) (c : Word) : (frameBuf L m c).length = 8 + m.length := by
  simp only [frameBuf, List.length_append, length_streamBytes]
  omega

/-- A serialized chunk is such a buffer, with the length and the checksum of its message (R61). -/
theorem serialize_eq_frameBuf (t : Word) (d : List Byte) :
    serialize t d = frameBuf (BitVec.ofNat 32 d.length) (streamBytes t ++ d) (crc32 (streamBytes t ++ d)) := by
  simp only [serialize, frameBuf, List.append_assoc]

theorem streamBytes_assemble {l : List Byte} (h : l.length = 4) : streamBytes (assemble l) = l := by
  obtain ⟨b0, b1, b2, b3, rfl⟩ := List.length_eq_four.1 h
  rw [assemble_four, streamBytes_be32]

/-- Every buffer long enough for a chunk has the fields of a frame (R150). -/
theorem exists_frameBuf {buf : List Byte} (h : 12 ≤ buf.length) :
    ∃ L m c, 4 ≤ m.length ∧ buf = frameBuf L m c := by
  have hL : (buf.take 4).length = 4 := by rw [List.length_take]; omega
  have hc : ((buf.drop 4).drop (buf.length - 8)).length = 4 := by simp only [List.length_drop]; omega
  refine ⟨assemble (buf.take 4), (buf.drop 4).take (buf.length - 8), assemble ((buf.drop 4).drop (buf.length - 8)),
    ?_, ?_⟩
  · simp only [List.length_take, List.length_drop]
    omega
  · rw [frameBuf, streamBytes_assemble hL, streamBytes_assemble hc, List.take_append_drop, List.take_append_drop]

theorem wordAt_append_right (xs ys : List Byte) (n : Nat) : wordAt (xs ++ ys) (xs.length + n) = wordAt ys n := by
  rw [wordAt, List.drop_length_add_append, wordAt]

theorem wordAt_append_left {xs : List Byte} (ys : List Byte) (h : 4 ≤ xs.length) :
    wordAt (xs ++ ys) 0 = wordAt xs 0 := by
  simp only [wordAt, List.drop_zero, List.take_append_of_le_length h]

@[simp] theorem wordAt_streamBytes (w : Word) : wordAt (streamBytes w) 0 = w :=
  assemble_streamBytes w

theorem wordAt_streamBytes_append (w : Word) (ys : List Byte) : wordAt (streamBytes w ++ ys) 0 = w := by
  rw [wordAt_append_left ys le_rfl, wordAt_streamBytes]

theorem wordAt_frameBuf_length (L : Word) (m : List Byte) (c : Word) : wordAt (frameBuf L m c) 0 = L :=
  wordAt_streamBytes_append L _

theorem wordAt_frameBuf_type (L c : Word) {m : List Byte} (hm : 4 ≤ m.length) :
    wordAt (frameBuf L m c) 4 = wordAt m 0 :=
  (wordAt_append_right (streamBytes L) _ 0).trans (wordAt_append_left _ hm)

theorem wordAt_frameBuf_crc (L : Word) (m : List Byte) (c : Word) : wordAt (frameBuf L m c) (4 + m.length) = c := by
  calc wordAt (frameBuf L m c) (4 + m.length)
      = wordAt (m ++ streamBytes c) (m.length + 0) := wordAt_append_right (streamBytes L) _ m.length
    _ = c := by rw [wordAt_append_right, wordAt_streamBytes]

theorem drop_four_frameBuf (L : Word) (m : List Byte) (c : Word) : (frameBuf L m c).drop 4 = m ++ streamBytes c :=
  List.drop_left' (length_streamBytes L)

theorem payload_frameBuf (L c : Word) {m : List Byte} (hm : 4 ≤ m.length) :
    ((frameBuf L m c).drop 8).take (m.length - 4) = m.drop 4 := by
  have hdrop : (frameBuf L m c).drop 8 = m.drop 4 ++ streamBytes c := by
    rw [← List.drop_append_of_le_length hm, ← drop_four_frameBuf L, List.drop_drop]
  rw [hdrop, List.take_left' List.length_drop]

/-! ### `Chunk::parse` of such a buffer (R140, R141, R157) -/

theorem chunkParse_of_short {pol : Policy} {buf : List Byte} (h : buf.length < 12) :
    chunkParse pol buf = .invalidInput := by
  rw [chunkParse, if_pos h]

theorem chunkParse_frameBuf_of_inconsistent {L c : Word} {m : List Byte} {s : State} (hm : 4 ≤ m.length)
    (hL : s.bufLen.toNat = 8 + m.length) (hi : LengthInconsistent s L) :
    chunkParse s.lenpol (frameBuf L m c) = .invalidChunkLength := by
  have hlong : ¬ (frameBuf L m c).length < 12 := by rw [length_frameBuf]; omega
  have hfail := (lengthCheck_eq_none_iff s.bufLen.toNat L.toNat s.lenpol).2 hi
  rw [chunkParse, if_neg hlong, length_frameBuf, wordAt_frameBuf_length, ← hL, hfail]

theorem chunkParse_frameBuf_of_consistent {L c : Word} {m : List Byte} {s : State} (hm : 4 ≤ m.length)
    (hL : s.bufLen.toNat = 8 + m.length) (hi : ¬ LengthInconsistent s L) :
    chunkParse s.lenpol (frameBuf L m c) = if crc32 m = c then .chunk (wordAt m 0) (m.drop 4) c else .invalidCrc := by
  have hlong : ¬ (frameBuf L m c).length < 12 := by rw [length_frameBuf]; omega
  have hpass := lengthCheck_eq_some s.bufLen.toNat L.toNat s.lenpol hi
  have hpayload : s.bufLen.toNat - 12 = m.length - 4 := by omega
  have hcrc : 8 + (m.length - 4) = 4 + m.length := by omega
  have hmsg : ((frameBuf L m c).drop 4).take (4 + (m.length - 4)) = m := by
    rw [drop_four_frameBuf, Nat.add_sub_cancel' hm, List.take_left]
  rw [chunkParse, if_neg hlong, length_frameBuf, wordAt_frameBuf_length, ← hL, hpass, hpayload]
  simp only [hmsg, hcrc, wordAt_frameBuf_crc, wordAt_frameBuf_type L c hm, payload_frameBuf L c hm]

/-! ### A whole buffer through the frame engine (R150, R152) -/

/-- The message: the type's word and the payload, the last byte of which ends it (R150). -/
theorem frameSteps_message {m : List Byte} {s : State} (hp : s.phase = .type) (h4 : s.pos = 4)
    (hm : m.length = 4 + s.plen.toNat) (hlt : 8 + s.plen.toNat < 2 ^ 32) :
    frameSteps m s
      = ({ s with pos := BitVec.ofNat 32 (8 + s.plen.toNat), acc := wordAt m 0, chunkType := wordAt m 0,
                  crc := crcSeq s.crc m, phase := .crcf }, none) := by
  obtain ⟨t, d, rfl⟩ : ∃ t d, m = streamBytes t ++ d := by
    refine ⟨assemble (m.take 4), m.drop 4, ?_⟩
    rw [streamBytes_assemble (by rw [List.length_take]; omega), List.take_append_drop]
  have hd : d.length = s.plen.toNat := by rw [List.length_append, length_streamBytes] at hm; omega
  rw [frameSteps_append_none (frameSteps_typeWord t hp h4), wordAt_streamBytes_append, crcSeq_append]
  by_cases hnil : d = []
  · subst hnil
    have hz : s.plen = 0 := (word_eq_zero_iff _).2 hd.symm
    rw [if_pos hz, hz]
    rfl
  · have hnz : s.plen ≠ 0 := by
      rw [Ne, word_eq_zero_iff, ← hd]
      exact mt List.length_eq_zero_iff.1 hnil
    rw [if_neg hnz]
    exact frameSteps_payload d _ rfl hnil (by rw [hd]; rfl) hlt

/-- PLEN of a frame whose length has passed is the payload's length (R141). -/
theorem toNat_bufLen_sub_twelve {m : List Byte} {s : State} (hm : 4 ≤ m.length) (hL : s.bufLen.toNat = 8 + m.length) :
    (s.bufLen - 12).toNat = m.length - 4 := by
  have h12 : 12 ≤ s.bufLen.toNat := by omega
  have hsub : (s.bufLen - 12).toNat = s.bufLen.toNat - 12 := BitVec.toNat_sub_of_le h12
  omega

/-- The state in which a frame's verdict is given: all the bytes of the buffer are received (R152). -/
def frameReceived (L : Word) (m : List Byte) (c : Word) (s : State) : State :=
  { s with pos := s.bufLen, acc := c, len := L, plen := s.bufLen - 12, chunkType := wordAt m 0, crc := crcSeq s.crc m,
           phase := .crcf }

theorem frameSteps_frameBuf_of_inconsistent {L c : Word} {m : List Byte} {s : State} (hp : s.phase = .len)
    (h0 : s.pos = 0) (hi : LengthInconsistent s L) :
    frameSteps (frameBuf L m c) s
      = ({ s with pos := 4, acc := L, len := L, phase := .error, fresult := .invalidChunkLength },
          some .invalidChunkLength) := by
  have hi' : LengthInconsistent { s with pos := 4, acc := L } L := hi
  exact frameSteps_append_some ((frameSteps_lengthWord L hp h0).trans (frameLength_of_inconsistent hi'))

theorem frameSteps_frameBuf_of_consistent {L c : Word} {m : List Byte} {s : State} (hp : s.phase = .len)
    (h0 : s.pos = 0) (hm : 4 ≤ m.length) (hL : s.bufLen.toNat = 8 + m.length) (hi : ¬ LengthInconsistent s L) :
    frameSteps (frameBuf L m c) s = frameVerdict (frameReceived L m c s) := by
  have hlt := s.bufLen.isLt
  have hplen := toNat_bufLen_sub_twelve hm hL
  have hi' : ¬ LengthInconsistent { s with pos := 4, acc := L } L := hi
  have hlen := (frameSteps_lengthWord L hp h0).trans (frameLength_of_consistent hi')
  rw [frameBuf, frameSteps_append_none hlen,
    frameSteps_append_none (frameSteps_message rfl rfl (by simp only [hplen]; omega) (by simp only [hplen]; omega)),
    frameSteps_crcWord c rfl (by simp only [hplen]; simp; omega) (by simp only [hplen]; omega)]
  have hpos : BitVec.ofNat 32 (8 + (s.bufLen - 12).toNat) + 4 = s.bufLen := by
    apply BitVec.eq_of_toNat_eq
    rw [hplen]
    simp
    omega
  simp only [hpos]
  rfl

end Sys2Proof.Machine

namespace Sys2Proof.Machine

/-! ### The verdict of a whole buffer after FRAME_START (R157) -/

/-- The state of a frame that has passed both its checks (R152). -/
def frameDone (L : Word) (m : List Byte) (c : Word) (s : State) : State :=
  { frameReceived L m c s with scrc := c, phase := .done }

/-- A buffer of BUF_LEN bytes after FRAME_START ends as if one command had consumed it. -/
theorem feedFrame_frameStarted {buf : List Byte} {s : State} (h12 : 12 ≤ buf.length)
    (hL : s.bufLen.toNat = buf.length) :
    feedFrame buf (frameStarted s) = finishWith (frameSteps buf (frameStarted s)) := by
  obtain ⟨hi, -⟩ := exec_frameStart_inv (exec_frameStart_of_fits (hL ▸ h12))
  have hne : buf ≠ [] := List.ne_nil_of_length_pos (by omega)
  have hroom : (0 : Word).toNat + buf.length ≤ s.bufLen.toNat := by simp [hL]
  exact feedFrame_eq_finishWith hne hi rfl hroom

section
variable {L c : Word} {m : List Byte} {s : State} (hm : 4 ≤ m.length) (hL : s.bufLen.toNat = 8 + m.length)
include hm hL

theorem feedFrame_frameBuf :
    feedFrame (frameBuf L m c) (frameStarted s) = finishWith (frameSteps (frameBuf L m c) (frameStarted s)) := by
  apply feedFrame_frameStarted
  · rw [length_frameBuf]
    omega
  · rw [length_frameBuf, hL]

theorem feedFrame_of_inconsistent (hi : LengthInconsistent s L) :
    ∃ u, feedFrame (frameBuf L m c) (frameStarted s) = .next u
      ∧ u.phase = .error ∧ u.fresult = .invalidChunkLength := by
  have hi' : LengthInconsistent (frameStarted s) L := hi
  rw [feedFrame_frameBuf hm hL, frameSteps_frameBuf_of_inconsistent rfl rfl hi']
  exact ⟨_, finishWith_some _ _, rfl, rfl⟩

theorem feedFrame_of_crc_ne (hi : ¬ LengthInconsistent s L) (hc : crc32 m ≠ c) :
    ∃ u, feedFrame (frameBuf L m c) (frameStarted s) = .next u ∧ u.phase = .error ∧ u.fresult = .invalidCrc := by
  have hi' : ¬ LengthInconsistent (frameStarted s) L := hi
  rw [feedFrame_frameBuf hm hL, frameSteps_frameBuf_of_consistent (s := frameStarted s) rfl rfl hm hL hi',
    frameVerdict_of_ne (s := frameReceived L m c (frameStarted s)) hc]
  exact ⟨_, finishWith_some _ _, rfl, rfl⟩

theorem frameSteps_frameBuf_of_crc_eq (hi : ¬ LengthInconsistent s L) (hc : crc32 m = c) :
    frameSteps (frameBuf L m c) (frameStarted s) = (frameDone L m c (frameStarted s), none) := by
  have hi' : ¬ LengthInconsistent (frameStarted s) L := hi
  rw [frameSteps_frameBuf_of_consistent (s := frameStarted s) rfl rfl hm hL hi',
    frameVerdict_of_eq (s := frameReceived L m c (frameStarted s)) hc]
  rfl

theorem feedFrame_of_crc_eq (hi : ¬ LengthInconsistent s L) (hc : crc32 m = c) :
    feedFrame (frameBuf L m c) (frameStarted s) = .next (finishOk (frameDone L m c (frameStarted s))) := by
  rw [feedFrame_frameBuf hm hL, frameSteps_frameBuf_of_crc_eq hm hL hi hc, finishWith_none]

end

/-- Settles O57: the buffer is too short, its length is inconsistent, or its checksum decides, as in `Chunk::parse`. -/
theorem frameVerdictIsChunkParse : Obligations.FrameVerdictIsChunkParse := by
  unfold Obligations.FrameVerdictIsChunkParse
  intro s buf hmax hbuf
  have hL : s.bufLen.toNat = buf.length := (toNat_eq_iff (Nat.lt_succ_of_le hmax)).2 hbuf
  by_cases h12 : buf.length < 12
  · refine ⟨_, _, exec_frameStart_of_short (hL ▸ h12), feedFrame_of_inactive buf rfl, ?_, nofun⟩
    rw [chunkParse_of_short h12]
    rfl
  · have h12 := Nat.not_lt.1 h12
    obtain ⟨L, m, c, hm, rfl⟩ := exists_frameBuf h12
    have hstart := exec_frameStart_of_fits (hL ▸ h12)
    rw [length_frameBuf] at hL
    by_cases hi : LengthInconsistent s L
    · obtain ⟨u, hu, hp, hf⟩ := feedFrame_of_inconsistent (c := c) hm hL hi
      refine ⟨_, u, hstart, hu, ?_, by simp [hp]⟩
      rw [chunkParse_frameBuf_of_inconsistent hm hL hi, verdictOf, hp, hf]
    · rw [chunkParse_frameBuf_of_consistent hm hL hi]
      by_cases hc : crc32 m = c
      · refine ⟨_, _, hstart, feedFrame_of_crc_eq hm hL hi hc, ?_, fun _ => ⟨hc, rfl⟩⟩
        rw [if_pos hc, ← payload_frameBuf L c hm, ← toNat_bufLen_sub_twelve hm hL]
        rfl
      · obtain ⟨u, hu, hp, hf⟩ := feedFrame_of_crc_ne hm hL hi hc
        refine ⟨_, u, hstart, hu, ?_, by simp [hp]⟩
        rw [if_neg hc, verdictOf, hp, hf]

/-! ### One flipped bit (R129, R160) -/

theorem flipBit_ne {xs : List Byte} {j k : Nat} (hj : j < xs.length) (hk : k < 8) : flipBit xs j k ≠ xs :=
  fun h => oneFlippedBitChangesTheChecksum xs j k hj hk (by rw [h])

@[simp] theorem length_flipBit (xs : List Byte) (j k : Nat) : (flipBit xs j k).length = xs.length :=
  List.length_modify ..

theorem flipBit_append_left {xs : List Byte} (ys : List Byte) {j : Nat} (k : Nat) (hj : j < xs.length) :
    flipBit (xs ++ ys) j k = flipBit xs j k ++ ys := by
  induction xs generalizing j with
  | nil => exact absurd hj (Nat.not_lt_zero j)
  | cons x xs ih =>
    cases j with
    | zero => rfl
    | succ j => exact congrArg (x :: ·) (ih (Nat.lt_of_succ_lt_succ hj))

theorem flipBit_append_right (xs ys : List Byte) (j k : Nat) :
    flipBit (xs ++ ys) (xs.length + j) k = xs ++ flipBit ys j k := by
  induction xs with
  | nil => rw [List.length_nil, Nat.zero_add, List.nil_append, List.nil_append]
  | cons x xs ih =>
    rw [List.length_cons, Nat.add_right_comm]
    exact congrArg (x :: ·) ih

/-- A flipped bit of a word's stream bytes is another word (R60). -/
theorem exists_flipBit_streamBytes (w : Word) {j k : Nat} (hj : j < 4) (hk : k < 8) :
    ∃ v, v ≠ w ∧ flipBit (streamBytes w) j k = streamBytes v := by
  have hv : streamBytes (assemble (flipBit (streamBytes w) j k)) = flipBit (streamBytes w) j k :=
    streamBytes_assemble (by rw [length_flipBit, length_streamBytes])
  refine ⟨_, fun h => ?_, hv.symm⟩
  rw [h] at hv
  exact flipBit_ne (xs := streamBytes w) hj hk hv.symm

/-- A flipped bit of a frame's buffer is in the length field, or it parts the message from its checksum (R160). -/
theorem flipBit_frameBuf (L : Word) (m : List Byte) {j k : Nat} (hj : j < 8 + m.length) (hk : k < 8) :
    (j < 4 ∧ ∃ L', L' ≠ L ∧ flipBit (frameBuf L m (crc32 m)) j k = frameBuf L' m (crc32 m))
    ∨ (4 ≤ j ∧ ∃ m' c', m'.length = m.length ∧ crc32 m' ≠ c'
      ∧ flipBit (frameBuf L m (crc32 m)) j k = frameBuf L m' c') := by
  by_cases h4 : j < 4
  · obtain ⟨L', hne, hflip⟩ := exists_flipBit_streamBytes L h4 hk
    exact .inl ⟨h4, L', hne, by rw [frameBuf, flipBit_append_left (xs := streamBytes L) _ k h4, hflip, frameBuf]⟩
  · obtain ⟨i, rfl⟩ := Nat.exists_eq_add_of_le (Nat.not_lt.1 h4)
    refine .inr ⟨Nat.le_add_right 4 i, ?_⟩
    have hrest : flipBit (frameBuf L m (crc32 m)) (4 + i) k
        = streamBytes L ++ flipBit (m ++ streamBytes (crc32 m)) i k :=
      flipBit_append_right (streamBytes L) _ i k
    rw [hrest]
    by_cases him : i < m.length
    · refine ⟨flipBit m i k, crc32 m, length_flipBit m i k, oneFlippedBitChangesTheChecksum m i k him hk, ?_⟩
      rw [flipBit_append_left _ k him, frameBuf]
    · obtain ⟨n, rfl⟩ := Nat.exists_eq_add_of_le (Nat.not_lt.1 him)
      obtain ⟨c', hne, hflip⟩ := exists_flipBit_streamBytes (crc32 m) (show n < 4 by omega) hk
      exact ⟨m, c', rfl, hne.symm, by rw [flipBit_append_right, hflip, frameBuf]⟩

/-- The declared length is consistent with a BUF_LEN of its own chunk exactly so far as the policy asks (R140). -/
theorem lengthInconsistent_iff {L : Word} {n : Nat} {s : State} (hL : s.bufLen.toNat = 12 + n) :
    LengthInconsistent s L ↔ n < L.toNat ∨ (s.lenpol = .strict ∧ L.toNat ≠ n) := by
  rw [LengthInconsistent, hL, Nat.add_comm 12 n]
  simp

/-! ### The chunk of a payload (R14, R61) -/

section
variable {s : State} {d : List Byte} (hmax : d.length ≤ Config.maxPayload)
include hmax

theorem toNat_ofNat_payload : (BitVec.ofNat 32 d.length).toNat = d.length := by
  have hmax' : d.length ≤ 0xFFFFFFF3 := hmax
  exact (toNat_eq_iff (by omega)).2 rfl

variable (hbuf : s.bufLen = BitVec.ofNat 32 (12 + d.length))
include hbuf

theorem toNat_bufLen_of_payload : s.bufLen.toNat = 12 + d.length := by
  have hmax' : d.length ≤ 0xFFFFFFF3 := hmax
  exact (toNat_eq_iff (by omega)).2 hbuf

theorem payload_length_consistent : ¬ LengthInconsistent s (BitVec.ofNat 32 d.length) := by
  rw [lengthInconsistent_iff (toNat_bufLen_of_payload hmax hbuf), toNat_ofNat_payload hmax]
  simp

end

theorem length_message (t : Word) (d : List Byte) : (streamBytes t ++ d).length = 4 + d.length := by
  rw [List.length_append, length_streamBytes]

/-- A declared length that is not the payload's, before a message with its own checksum: the length check alone decides
(R140, R160). -/
theorem feedFrame_of_other_length {L : Word} {m : List Byte} {s : State} {n : Nat} (hm : m.length = 4 + n)
    (hL : s.bufLen.toNat = 12 + n) (hne : L.toNat ≠ n) :
    ∃ u, feedFrame (frameBuf L m (crc32 m)) (frameStarted s) = .next u
      ∧ (s.lenpol = .strict → u.phase = .error ∧ u.fresult = .invalidChunkLength)
      ∧ (s.lenpol = .bound → n < L.toNat → u.phase = .error ∧ u.fresult = .invalidChunkLength)
      ∧ (s.lenpol = .bound → L.toNat < n → u.phase = .done ∧ u.len ≠ u.plen) := by
  have hm4 : 4 ≤ m.length := by omega
  have hLm : s.bufLen.toNat = 8 + m.length := by omega
  by_cases hi : LengthInconsistent s L
  · obtain ⟨u, hu, hp, hf⟩ := feedFrame_of_inconsistent (c := crc32 m) hm4 hLm hi
    refine ⟨u, hu, fun _ => ⟨hp, hf⟩, fun _ _ => ⟨hp, hf⟩, fun hb hlt => ?_⟩
    obtain hgt | ⟨hs, -⟩ := (lengthInconsistent_iff hL).1 hi
    · omega
    · cases hs.symm.trans hb
  · refine ⟨_, feedFrame_of_crc_eq hm4 hLm hi rfl, fun hs => ?strict, fun _ hgt => ?raised,
      fun _ _ => ⟨rfl, fun heq => ?lowered⟩⟩
    case strict => exact absurd ((lengthInconsistent_iff hL).2 (.inr ⟨hs, hne⟩)) hi
    case raised => exact absurd ((lengthInconsistent_iff hL).2 (.inl hgt)) hi
    case lowered =>
      have hplen : L = s.bufLen - 12 := heq
      have hsub := toNat_bufLen_sub_twelve hm4 hLm
      rw [← hplen] at hsub
      omega

/-- Settles O59: a flipped length is judged by the length check alone; any other bit parts the message from its
checksum. -/
theorem corruptedChunkVerdicts : Obligations.CorruptedChunkVerdicts := by
  unfold Obligations.CorruptedChunkVerdicts
  intro s t d j k hmax hbuf hj hk buf
  have hL := toNat_bufLen_of_payload hmax hbuf
  have hmlen := length_message t d
  have hstart := exec_frameStart_of_fits (s := s) (by omega)
  refine ⟨frameStarted s, ?_⟩
  simp only [buf, serialize_eq_frameBuf]
  obtain ⟨h4, L, hne, hflip⟩ | ⟨h4, m', c', hm', hc, hflip⟩ :=
    flipBit_frameBuf (BitVec.ofNat 32 d.length) (streamBytes t ++ d) (j := j) (by omega) hk
  · have hneNat : L.toNat ≠ d.length := fun h =>
      hne (BitVec.eq_of_toNat_eq (h.trans (toNat_ofNat_payload hmax).symm))
    obtain ⟨u, hu, hstrict, hraised, hlowered⟩ := feedFrame_of_other_length hmlen hL hneNat
    rw [hflip, wordAt_frameBuf_length]
    exact ⟨u, hstart, hu, fun h => absurd h4 (Nat.not_lt.2 h), fun _ => hstrict, fun _ => hraised, fun _ => hlowered⟩
  · have hi := payload_length_consistent hmax hbuf
    obtain ⟨u, hu, hp, hf⟩ := feedFrame_of_crc_ne (m := m') (by omega) (by omega) hi hc
    have hfield : ¬ j < 4 := Nat.not_lt.2 h4
    rw [hflip]
    exact ⟨u, hstart, hu, fun _ => ⟨hp, hf⟩, fun h => absurd h hfield, fun h => absurd h hfield,
      fun h => absurd h hfield⟩

end Sys2Proof.Machine

namespace Sys2Proof.Machine

/-! ### Feeding a frame in any split (R155, R159) -/

theorem Piece.length_bytes_pos (p : Piece) : 0 < p.bytes.length := by
  cases p <;> simp [Piece.bytes]

theorem runTxns_frameTxns {p : Piece} {s t : State} (ha : active s.phase = true)
    (hroom : s.pos.toNat + p.bytes.length ≤ s.bufLen.toNat) (h : frameSteps p.bytes s = (t, none)) :
    runTxns p.frameTxns s = .next { t with data := fedData [p] s.data, result := .ok } := by
  obtain ⟨hdata, -⟩ := frameSteps_frame p.bytes s
  rw [h] at hdata
  cases p with
  | byte b =>
    have hexec : exec (.frameByte b) s = .next (finishOk t) := by
      rw [exec_frameByte_of_active b ha, ← frameSteps_singleton]
      exact congrArg finishWith h
    rw [Piece.frameTxns, runTxns_commandTxn rfl hexec, fedData, fedData, ← hdata]
    rfl
  | word w =>
    have hsteps : frameSteps (streamBytes w) (writeData w s) = ({ t with data := w, result := s.result }, none) :=
      frameSteps_withDataResult w s.result h
    have hexec : exec .frameWord (writeData w s) = .next (finishOk { t with data := w, result := s.result }) := by
      rw [exec_frameWord_of_room (s := writeData w s) ha hroom, writeData_data, hsteps, finishWith_none]
    rw [Piece.frameTxns, runTxns_dataCommandTxns rfl hexec]
    rfl

/-- Pieces whose bytes the frame has room for and takes without an error: the state is as if one command had consumed
the bytes, but for DATA and RESULT. -/
theorem runTxns_flatMap_frameTxns {ps : List Piece} {s u : State} (hi : FrameInv s) (ha : active s.phase = true)
    (hroom : s.pos.toNat + (ps.flatMap Piece.bytes).length ≤ s.bufLen.toNat)
    (h : frameSteps (ps.flatMap Piece.bytes) s = (u, none)) :
    runTxns (ps.flatMap Piece.frameTxns) s
      = .next { u with data := fedData ps s.data, result := fedResult ps s.result } := by
  induction ps generalizing s u with
  | nil =>
    cases h
    rfl
  | cons p ps ih =>
    rw [List.flatMap_cons] at h hroom ⊢
    rw [List.length_append] at hroom
    rcases hp : frameSteps p.bytes s with ⟨t, _ | c⟩
    · rw [frameSteps_append_none hp] at h
      rw [runTxns_append_of_next _ (runTxns_frameTxns ha (by omega) hp)]
      cases ps with
      | nil =>
        cases h
        rfl
      | cons q qs =>
        have hmore : 0 < ((q :: qs).flatMap Piece.bytes).length := by
          rw [List.flatMap_cons, List.length_append]
          exact Nat.add_pos_left (Piece.length_bytes_pos q) _
        obtain ⟨hit, hat, hpos, hbuf⟩ := frameSteps_stays_active hi ha (by omega) hp
        have hnext := frameSteps_withDataResult (fedData [p] s.data) .ok h
        have hdata : fedData (q :: qs) (fedData [p] s.data) = fedData (p :: q :: qs) s.data := by cases p <;> rfl
        rw [ih (s := { t with data := fedData [p] s.data, result := .ok }) hit hat
          (by simp only [hpos, hbuf]; omega) hnext, ← hdata]
        rfl
    · rw [frameSteps_append_some hp] at h
      cases h

/-- Settles O58: the pieces are as the whole buffer consumed at once, whose length is its own and whose checksum is its
message's. -/
theorem serializedChunkParsesBack : Obligations.SerializedChunkParsesBack := by
  unfold Obligations.SerializedChunkParsesBack
  intro s t d pieces hmax hbuf hbytes
  have hL := toNat_bufLen_of_payload hmax hbuf
  have hmlen := length_message t d
  have hm : 4 ≤ (streamBytes t ++ d).length := by omega
  have hLm : s.bufLen.toNat = 8 + (streamBytes t ++ d).length := by omega
  have hstart := exec_frameStart_of_fits (s := s) (by omega)
  have hcmd : transact (commandTxn .frameStart) s = .next (frameStarted s) := (transact_commandTxn s rfl).trans hstart
  obtain ⟨hinv, -⟩ := exec_frameStart_inv hstart
  rw [serialize_eq_frameBuf] at hbytes
  have hdone := frameSteps_frameBuf_of_crc_eq hm hLm (payload_length_consistent hmax hbuf) rfl
  have hroom : (0 : Word).toNat + (pieces.flatMap Piece.bytes).length ≤ s.bufLen.toNat := by
    rw [hbytes, length_frameBuf, hLm]
    simp
  rw [← hbytes] at hdone
  refine ⟨_, (runTxns_cons_of_transact _ hcmd).trans (runTxns_flatMap_frameTxns hinv rfl hroom hdone), rfl,
    wordAt_streamBytes_append t d, toNat_ofNat_payload hmax, ?plen, rfl, rfl, ?result, rfl⟩
  case plen => exact (toNat_bufLen_sub_twelve hm hLm).trans (by omega)
  case result => cases pieces <;> rfl

end Sys2Proof.Machine

namespace Sys2Proof.Machine

/-! ### The control commands (R180, R181) -/

/-- Settles O13: the one effect is `finishOk`'s, with no check of the phase; the format Z immediate decides the word. -/
theorem nopClearsResultOnly : Obligations.NopClearsResultOnly := by
  unfold Obligations.NopClearsResultOnly
  intro s imm
  have hword : decode 0x00000000 = .ok .nop := decode_encode (i := .nop) rfl
  exact ⟨exec_nop s, transact_cmd_of_decode s hword, transact_cmd_of_formatZ_immediate s (by decide)⟩

/-- Settles O14: the bit is cleared by the command alone, with no check of the phase; an illegal word of its opcode
raises 6, so it sets the bit. -/
theorem clrErrClearsErrAndResult : Obligations.ClrErrClearsErrAndResult := by
  unfold Obligations.ClrErrClearsErrAndResult
  intro s imm
  have hword : decode 0x7F000000 = .ok .clrErr := decode_encode (i := .clrErr) rfl
  exact ⟨exec_clrErr s, transact_cmd_of_decode s hword, transact_cmd_of_formatZ_immediate s (by decide)⟩

end Sys2Proof.Machine

namespace Sys2Proof.Machine

/-! ### How a command leaves RESULT and ERR (R202, R203) -/

/-- RESULT 0 with ERR as it was, or the code of an error with ERR set. -/
abbrev ErrFollowsResult (s t : State) : Prop :=
  (t.result = .ok ∧ t.err = s.err) ∨ (t.result ≠ .ok ∧ t.err = true)

theorem errFollowsResult_finishOk {s u : State} (h : u.err = s.err) : ErrFollowsResult s (finishOk u) := .inl ⟨rfl, h⟩

theorem errFollowsResult_raiseCode {c : ResultCode} (hc : c ≠ .ok) (s u : State) : ErrFollowsResult s (raiseCode c u) :=
  .inr ⟨hc, rfl⟩

theorem standalone_errFollowsResult {body : State → Host.Outcome State Fault Refusal} {s t : State}
    (hb : body s = .next t → ErrFollowsResult s t) (h : standalone body s = .next t) : ErrFollowsResult s t := by
  obtain ⟨-, rfl⟩ | ⟨-, h⟩ := standalone_cases h
  · exact errFollowsResult_raiseCode (by decide) s s
  · exact hb h

/-- The codes of a frame byte's errors are 2 and 3 (R152). -/
theorem frameStep_code_ne_ok (b : Byte) (s : State) : (frameStep b s).2 ≠ some .ok := by
  cases ha : active s.phase with
  | true =>
    obtain ⟨_, _, h⟩ | ⟨_, _, _, h⟩ | ⟨_, _, _, _, h⟩ | ⟨_, _, h⟩ | ⟨_, _, h⟩ | ⟨_, h⟩ | ⟨_, _, h⟩ | ⟨_, _, _, h⟩
      | ⟨_, _, _, h⟩ := frameStep_cases b s ha <;> simp [h]
  | false => obtain hp | hp | hp := (inactive_iff s.phase).1 ha <;> simp [frameStep, hp]

theorem frameSteps_code_ne_ok (bs : List Byte) (s : State) : (frameSteps bs s).2 ≠ some .ok := by
  induction bs generalizing s with
  | nil => simp [frameSteps]
  | cons b bs ih =>
    have hb := frameStep_code_ne_ok b s
    rcases hr : frameStep b s with ⟨t, _ | c⟩
    · rw [frameSteps_cons_none hr]
      exact ih t
    · rw [frameSteps_cons_some hr]
      rwa [hr] at hb

theorem finishWith_frameSteps_errFollowsResult {bs : List Byte} {s t : State}
    (h : finishWith (frameSteps bs s) = .next t) : ErrFollowsResult s t := by
  obtain ⟨-, rfl⟩ | ⟨c, hc, rfl⟩ := finishWith_cases h
  · obtain ⟨-, -, -, -, herr, -, -⟩ := frameSteps_frame bs s
    exact errFollowsResult_finishOk herr
  · refine errFollowsResult_raiseCode ?_ s _
    rintro rfl
    exact frameSteps_code_ne_ok bs s hc

/-- Every command but CLR_ERR ends by `ok()` with ERR untouched or by raising a code that is not 0 (R9, R203). -/
theorem exec_errFollowsResult {i : Instr} {s t : State} (hi : i ≠ .clrErr) (h : exec i s = .next t) :
    ErrFollowsResult s t := by
  cases i with
  | clrErr => exact absurd rfl hi
  | nop | frameAbort =>
    cases h
    exact errFollowsResult_finishOk rfl
  | crcInit | crcByte _ | crcWord | typeBytes =>
    simp only [exec_crcInit, exec_crcByte, exec_crcWord, exec_typeBytes] at h
    refine standalone_errFollowsResult (fun h => ?_) h
    cases h
    exact errFollowsResult_finishOk rfl
  | crcCheck =>
    rw [exec_crcCheck] at h
    refine standalone_errFollowsResult (fun h => ?_) h
    split_ifs at h <;> cases h
    · exact errFollowsResult_finishOk rfl
    · exact errFollowsResult_raiseCode (by decide) s _
  | typeText n =>
    rw [exec_typeText] at h
    refine standalone_errFollowsResult (fun h => ?_) h
    split_ifs at h <;> cases h
    · exact errFollowsResult_raiseCode (by decide) s _
    · exact errFollowsResult_finishOk rfl
    · exact errFollowsResult_raiseCode (by decide) s _
  | lenParse =>
    rw [exec_lenParse] at h
    refine standalone_errFollowsResult (fun h => ?_) h
    split_ifs at h <;> cases h
    · exact errFollowsResult_raiseCode (by decide) s _
    · exact errFollowsResult_raiseCode (by decide) s _
    · exact errFollowsResult_finishOk rfl
  | frameStart =>
    rw [exec_frameStart] at h
    split_ifs at h <;> cases h
    · exact errFollowsResult_raiseCode (by decide) s _
    · exact errFollowsResult_finishOk rfl
  | frameByte b =>
    rw [exec_frameByte, ← frameSteps_singleton] at h
    split_ifs at h
    · exact finishWith_frameSteps_errFollowsResult h
    · cases h
      exact errFollowsResult_raiseCode (by decide) s s
  | frameWord =>
    rw [exec_frameWord] at h
    split_ifs at h
    · cases h
      exact errFollowsResult_raiseCode (by decide) s s
    · exact finishWith_frameSteps_errFollowsResult h

/-- Everything a word written to CMD can do to RESULT and ERR; an illegal one raises 6 (R73, R181). -/
theorem issueCommand_err_cases {w : Word} {s t : State} (h : issueCommand w s = .next t) :
    (w = 0x7F000000 ∧ t.result = .ok ∧ t.err = false) ∨ (w ≠ 0x7F000000 ∧ ErrFollowsResult s t) := by
  have hclr : decode 0x7F000000 = .ok .clrErr := decode_encode (i := .clrErr) rfl
  by_cases hw : w = 0x7F000000
  · rw [hw, issueCommand_of_ok s hclr] at h
    cases h
    exact .inl ⟨hw, rfl, rfl⟩
  · refine .inr ⟨hw, ?_⟩
    obtain ⟨-, rfl⟩ | ⟨i, hd, he⟩ := issueCommand_cases h
    · exact errFollowsResult_raiseCode (by decide) s s
    · refine exec_errFollowsResult ?_ he
      rintro rfl
      obtain ⟨-, henc⟩ := encodeInvertsDecode w .clrErr hd
      exact hw henc.symm

/-- Everything a transaction can do to RESULT and ERR: a reset, a CMD write's word issued, or nothing (R202, R203). -/
theorem transact_err_cases {x : Txn} {s t : State} (h : transact x s = .next t) :
    x = .reset ∨ (∃ off w, x = .write off w ∧ off &&& 0x3C = 0x00 ∧ issueCommand w s = .next t)
      ∨ ((∀ off w, x = .write off w → off &&& 0x3C ≠ 0x00) ∧ t.result = s.result ∧ t.err = s.err) := by
  cases x with
  | reset => exact .inl rfl
  | read off =>
    cases h
    exact .inr (.inr ⟨by simp, rfl, rfl⟩)
  | write off v =>
    by_cases h0 : off &&& 0x3C = 0x00
    · exact .inr (.inl ⟨off, v, rfl, h0, (transact_write_eq v s h0).symm.trans h⟩)
    · refine .inr (.inr ⟨by rintro _ _ ⟨⟩; exact h0, ?_⟩)
      obtain ⟨ho, -⟩ | ⟨-, rfl⟩ | ⟨-, rfl⟩ | ⟨-, rfl⟩ | ⟨-, rfl⟩ := write_cases h
      · exact absurd ho h0
      · exact ⟨rfl, rfl⟩
      · exact ⟨writeCtrl_result v s, writeCtrl_err v s⟩
      · exact ⟨writeBufLen_result v s, writeBufLen_err v s⟩
      · exact ⟨rfl, rfl⟩

/-- Settles O49: a CMD write is CLR_ERR's word or has ERR follow its RESULT; any other transaction keeps both. -/
theorem errIsSticky : Obligations.ErrIsSticky := by
  unfold Obligations.ErrIsSticky
  intro x s u h hreset
  obtain hx | ⟨off, w, rfl, ho, hcmd⟩ | ⟨hx, hresult, herr⟩ := transact_err_cases h
  · exact absurd hx hreset
  · refine ⟨fun hno => absurd ho (hno off w rfl), ?_, ?_, ?_⟩
    · rintro _ _ ⟨⟩ - hne
      obtain ⟨-, hok, -⟩ | ⟨-, ⟨hok, -⟩ | ⟨-, hset⟩⟩ := issueCommand_err_cases hcmd
      · exact absurd hok hne
      · exact absurd hok hne
      · exact hset
    · rintro _ _ ⟨⟩ - hok hw
      obtain ⟨hclr, -⟩ | ⟨-, ⟨-, hkept⟩ | ⟨hne, -⟩⟩ := issueCommand_err_cases hcmd
      · exact absurd hclr hw
      · exact hkept
      · exact absurd hok hne
    · intro hset hclr
      obtain ⟨rfl, -⟩ | ⟨-, ⟨-, hkept⟩ | ⟨-, hset'⟩⟩ := issueCommand_err_cases hcmd
      · exact absurd ho (hclr off rfl)
      · exact hkept.trans hset
      · exact hset'
  · exact ⟨fun _ => ⟨hresult, herr⟩, fun off w hw ho => absurd ho (hx off w hw),
      fun off w hw ho => absurd ho (hx off w hw), fun hset _ => herr.trans hset⟩

/-- Settles O50: the ERR after it aside, a command's next state is one and the same whatever RESULT and ERR held. -/
theorem resultAndErrInfluenceNoCommand : Obligations.ResultAndErrInfluenceNoCommand := by
  unfold Obligations.ResultAndErrInfluenceNoCommand
  intro i s r e
  obtain ⟨_, _, h⟩ := exec_ignoresSide i s
  exact ⟨_, _, h s.result s.err s.pending s.observed, h r e s.pending s.observed, rfl⟩

end Sys2Proof.Machine


namespace Sys2Proof.Machine

/-! ### Clock cycles (R220, R221) -/

/-- R221: reset comes before whatever access is presented. -/
theorem pinTxn_of_rst {p : Pins} (hr : p.rst = true) : pinTxn p = some .reset := if_pos hr

/-- R220: a stalled access and an empty cycle complete nothing. -/
theorem pinTxn_eq_none {p : Pins} (hr : p.rst = false) (h : p.ready = false ∨ p.sel = false) : pinTxn p = none := by
  obtain h | h := h <;> simp [pinTxn, hr, h]

theorem pinTxn_of_read {p : Pins} (hr : p.rst = false) (hready : p.ready = true) (hs : p.sel = true) (hw : p.we = false) :
    pinTxn p = some (.read (pinOffset p)) := by
  simp [pinTxn, hr, hready, hs, hw]

theorem pinTxn_of_write {p : Pins} (hr : p.rst = false) (hready : p.ready = true) (hs : p.sel = true) (hw : p.we = true) :
    pinTxn p = some (.write (pinOffset p) p.wdata) := by
  simp [pinTxn, hr, hready, hs, hw]

theorem portCycle_of_none {p : Pins} (s : State) (h : pinTxn p = none) : portCycle p s = .next s := by
  simp only [portCycle, h]

theorem portCycle_of_some {p : Pins} {x : Txn} (s : State) (h : pinTxn p = some x) : portCycle p s = transact x s := by
  simp only [portCycle, h]

theorem pinRdata_of_some {p : Pins} {x : Txn} (s : State) (h : pinTxn p = some x) : pinRdata p s = rdata x s := by
  simp only [pinRdata, h]

theorem pinTxns_cons_of_none {p : Pins} (ps : List Pins) (h : pinTxn p = none) : pinTxns (p :: ps) = pinTxns ps :=
  List.filterMap_cons_none h

theorem pinTxns_cons_of_some {p : Pins} {x : Txn} (ps : List Pins) (h : pinTxn p = some x) :
    pinTxns (p :: ps) = x :: pinTxns ps :=
  List.filterMap_cons_some h

/-- A cycle in which nothing completes drops out of the run. -/
theorem portCycles_cons_of_none {p : Pins} (ps : List Pins) (s : State) (h : pinTxn p = none) :
    portCycles (p :: ps) s = portCycles ps s := by
  simp only [portCycles, portCycle_of_none s h]

/-- By induction on the cycles: one that completes nothing drops out on both sides, and one that completes a transaction
is that transaction, after whose next state the two runs agree and at whose stop both end. -/
theorem portCycles_eq_runTxns (ps : List Pins) (s : State) : portCycles ps s = runTxns (pinTxns ps) s := by
  induction ps generalizing s with
  | nil => rfl
  | cons p ps ih =>
    cases hp : pinTxn p with
    | none => rw [portCycles_cons_of_none ps s hp, pinTxns_cons_of_none ps hp, ih]
    | some x =>
      rw [pinTxns_cons_of_some ps hp, portCycles, runTxns, portCycle_of_some s hp]
      cases transact x s with
      | next t => exact ih t
      | fault r => rfl
      | refused r => rfl

/-- Settles O12: a run of cycles is the run of their transactions, and `pinTxn` says which one completes in a cycle. -/
theorem stallCyclesChangeNoOutcome : Obligations.StallCyclesChangeNoOutcome := by
  unfold Obligations.StallCyclesChangeNoOutcome
  refine ⟨portCycles_eq_runTxns, ?reset, ?stall, ?read, ?write⟩
  case reset => exact fun _ s hr => portCycle_of_some s (pinTxn_of_rst hr)
  case stall => exact fun _ s hr h => portCycle_of_none s (pinTxn_eq_none hr h)
  case read =>
    intro p s hr hready hs hw
    have hp := pinTxn_of_read hr hready hs hw
    exact ⟨portCycle_of_some s hp, pinRdata_of_some s hp⟩
  case write => exact fun _ s hr hready hs hw => portCycle_of_some s (pinTxn_of_write hr hready hs hw)

end Sys2Proof.Machine
